-- ==== Sys2Proof/Word.lean ====
section
/-! DEFINITION. The word and byte types of the block (R11, R21, R81). -/

namespace Sys2Proof

/-- A 32-bit register, tag or command word (R21, R81, R86). -/
abbrev Word := BitVec 32

/-- A sample or a byte of memory (R11). -/
abbrev Byte := BitVec 8

end Sys2Proof
end

