-- ==== Sys2Proof/Config.lean ====
section
/-! DEFINITION. The names the spec gives layouts and kernels, the parameters of a model of the
block (R8) and the free value `draw` (R12). -/

namespace Sys2Proof

/-- The six destination layouts, in the order of their kernel ids 0 to 5 (R3, R85). -/
inductive Layout where
  | yuyv | yvyu | uyvy | iuyv | cyuv | y211
  deriving DecidableEq, Repr

/-- The five layouts whose kernel is implemented (R3, R37, R85). -/
inductive Packer where
  | yuyv | yvyu | uyvy | cyuv | y211
  deriving DecidableEq, Repr

/-- The sixteen registers of one copy of the block (R21). -/
inductive RegName where
  | cmd | status | busy | kernel | srcTag | dstTag | width | height
  | yBase | yStride | uBase | uStride | vBase | vStride | dBase | dStride
  deriving DecidableEq, Repr

/-- `rows` runs of `extent` bytes whose first bytes are `stride` apart, from `base`: the shape of a
source plane (R52, R55), of a write set (R53, R54) and, with one row, of a window of memory. -/
structure Region where
  base : Nat
  stride : Nat
  extent : Nat
  rows : Nat
  deriving DecidableEq, Repr

/-- TAG_TABLE (R83): the planar 4:2:2 source tag, and the layout each destination tag denotes. -/
structure TagTable where
  src422 : Word
  dst : List (Word × Layout)
  deriving DecidableEq, Repr

/-- The parameters of R8 that a machine fixes. DIM_BITS is 32 (R8, D3) and stands in the types;
N_INSTANCES is the number of copies State holds. DESIGN CHOICE (log 2): they travel in State as plain
data, so that a statement about every state is a statement about every choice of them. -/
structure Config where
  /-- ADDR_BITS, the width of an address and of a stride (R8, R50). -/
  addrBits : Nat
  /-- TAG_TABLE (R83). -/
  tagTable : TagTable
  /-- SELECT_REJECTS_IUYV (R117). -/
  selectRejectsIuyv : Bool
  /-- REG_MAP (R21): bus address, copy of the block, register. -/
  regMap : List (Nat × Nat × RegName)
  /-- Where the predicate ORDINARY fails (R63). -/
  devices : List Region
  deriving DecidableEq, Repr

/-- The `n`-th draw (R12): a byte the spec leaves open. No value of it can be proved. -/
opaque Config.draw : Nat → Byte

/-- The default TAG_TABLE of R84. PRESUMED (log 4): the spec takes its spellings from general
knowledge of the code base. -/
def TagTable.default : TagTable where
  src422 := 0x32323449#32
  dst := [(0x32595559#32, .yuyv), (0x564E5559#32, .yuyv), (0x55595659#32, .yvyu),
          (0x59565955#32, .uyvy), (0x564E5955#32, .uyvy), (0x32323459#32, .uyvy),
          (0x56595549#32, .iuyv), (0x76757963#32, .cyuv), (0x31313259#32, .y211)]

/-- The register map of State.reset: register `index` of copy 0 at bus address `4 * index`.
DESIGN CHOICE (log 3): REG_MAP is open. -/
def Config.defaultRegMap : List (Nat × Nat × RegName) :=
  [(0, 0, .cmd), (4, 0, .status), (8, 0, .busy), (12, 0, .kernel),
   (16, 0, .srcTag), (20, 0, .dstTag), (24, 0, .width), (28, 0, .height)] ++
  [(32, 0, .yBase), (36, 0, .yStride), (40, 0, .uBase), (44, 0, .uStride),
   (48, 0, .vBase), (52, 0, .vStride), (56, 0, .dBase), (60, 0, .dStride)]

/-- The parameters of State.reset: the values R8 fixes, and DESIGN CHOICE (log 3) 32 address bits,
one copy of the block, the map above and no window that is not ordinary memory. -/
def Config.default : Config where
  addrBits := 32
  tagTable := .default
  selectRejectsIuyv := true
  regMap := Config.defaultRegMap
  devices := []

end Sys2Proof
end

