-- ==== Sys2Proof/Syntax.lean ====
section
/-! DEFINITION. The rows of the opcode table (R96): seven command words, one source tag word and
nine destination tag words. No row has an operand field (R88). -/

namespace Sys2Proof

/-- One constructor per row of spec/opcode_table.json. A command row is the word a host writes to CMD
(R90); a tag row is the word a host writes to SRC_TAG or DST_TAG (R26, R27, R84; log 7). -/
inductive Instr where
  /-- SELECT (R111). -/
  | select
  /-- CONVERT.YUYV (R140). -/
  | convertYuyv
  /-- CONVERT.YVYU (R141). -/
  | convertYvyu
  /-- CONVERT.UYVY (R142). -/
  | convertUyvy
  /-- CONVERT.IUYV (R143). -/
  | convertIuyv
  /-- CONVERT.CYUV (R144). -/
  | convertCyuv
  /-- CONVERT.Y211 (R145). -/
  | convertY211
  /-- SRC.I422 (R113). -/
  | srcI422
  /-- DST.YUY2, layout YUYV (R114). -/
  | dstYuy2
  /-- DST.YUNV, layout YUYV (R114, R115). -/
  | dstYunv
  /-- DST.YVYU, layout YVYU (R114). -/
  | dstYvyu
  /-- DST.UYVY, layout UYVY (R114). -/
  | dstUyvy
  /-- DST.UYNV, layout UYVY (R114, R115). -/
  | dstUynv
  /-- DST.Y422, layout UYVY (R114, R115). -/
  | dstY422
  /-- DST.IUYV, layout IUYV (R114, R117). -/
  | dstIuyv
  /-- DST.cyuv, layout CYUV (R114). -/
  | dstCyuv
  /-- DST.Y211, layout Y211 (R114). -/
  | dstY211
  deriving DecidableEq, Repr

end Sys2Proof
end

