-- ==== Sys2Proof/WellFormed.lean ====
section
/-! DEFINITION. What a well-formed instruction, tag table and parameter record are. -/

namespace Sys2Proof

/-- A well-formed instruction. A row has no operand field (R88), so every row is well formed; the
checks with something to refuse are those of the tag table and the parameters below. -/
def Instr.wf (_ : Instr) : Bool := true

/-- How many tags of the table denote `l`. -/
def TagTable.spellings (t : TagTable) (l : Layout) : Nat :=
  (t.dst.filter fun e => decide (e.2 = l)).length

/-- Every layout has at least one tag (R83). -/
def TagTable.everyLayoutNamed (t : TagTable) : Bool :=
  [Layout.yuyv, .yvyu, .uyvy, .iuyv, .cyuv, .y211].all fun l => decide (1 ≤ t.spellings l)

/-- At least one layout has two spellings (R83). -/
def TagTable.someAliased (t : TagTable) : Bool :=
  [Layout.yuyv, .yvyu, .uyvy, .iuyv, .cyuv, .y211].any fun l => decide (2 ≤ t.spellings l)

/-- No tag is listed twice, so no tag maps to two layouts (R83). -/
def TagTable.unambiguous (t : TagTable) : Bool := decide (t.dst.map (·.1)).Nodup

/-- What R83 asks of TAG_TABLE. -/
def TagTable.wf (t : TagTable) : Bool :=
  t.everyLayoutNamed && t.someAliased && t.unambiguous

/-- Every register of R21, in the order of its index. -/
def RegName.all : List RegName :=
  [.cmd, .status, .busy, .kernel, .srcTag, .dstTag, .width, .height] ++
  [.yBase, .yStride, .uBase, .uStride, .vBase, .vStride, .dBase, .dStride]

/-- REG_MAP gives each register of each of the `n` copies an address, and no address to two (R21). -/
def Config.regMapWf (c : Config) (n : Nat) : Bool :=
  decide (c.regMap.map (·.1)).Nodup &&
  (List.range n).all fun k => RegName.all.all fun r => (c.regMap.map (·.2)).contains (k, r)

/-- What R8 asks of the parameters of a machine with `n` copies of the block. -/
def Config.wf (c : Config) (n : Nat) : Bool :=
  decide (1 ≤ c.addrBits) && c.tagTable.wf && decide (1 ≤ n) && c.regMapWf n

end Sys2Proof
end

