-- ==== Sys2Proof/Decode.lean ====
section
/-! DEFINITION. The decoder of the command word (R86 to R91) and of the tag words (R81 to R84), and
the encoder. -/

namespace Sys2Proof

/-- The register a word is written to, which fixes its format: CMD32, SRCTAG32, DSTTAG32 (R96). -/
inductive Port where
  | cmd | srcTag | dstTag
  deriving DecidableEq, Repr

/-- Why a word is no row of the table. -/
inductive DecodeError where
  /-- A bit of RSV is set (R89): ILLEGAL. -/
  | reservedBits
  /-- OP is 00 or 11 (R86): ILLEGAL. -/
  | reservedOp
  /-- SELECT with KID other than 0 (R88): ILLEGAL. -/
  | selectKid
  /-- CONVERT with the reserved KID 6 (R85): ILLEGAL. -/
  | reservedKid
  /-- CONVERT with KID 7, NONE (R85): ILLEGAL. -/
  | noneKid
  /-- Not a source tag row of the table. -/
  | unlistedSourceTag
  /-- Not a destination tag row of the table. -/
  | unlistedDestTag
  deriving DecidableEq, Repr

/-- What a word decodes to. -/
inductive Decoded where
  | instr (i : Instr)
  | rejected (e : DecodeError)
  deriving DecidableEq, Repr

/-- OP, bits 1:0 of the command word (R86). -/
def cmdOp (c : Word) : BitVec 2 := c.extractLsb' 0 2

/-- KID, bits 4:2 of the command word (R86). -/
def cmdKid (c : Word) : BitVec 3 := c.extractLsb' 2 3

/-- RSV, bits 31:5 of the command word (R86). -/
def cmdRsv (c : Word) : BitVec 27 := c.extractLsb' 5 27

/-- The CONVERT that a kernel id names (R85, R90). -/
def decodeKid (k : BitVec 3) : Decoded :=
  match k.toNat with
  | 0 => .instr .convertYuyv
  | 1 => .instr .convertYvyu
  | 2 => .instr .convertUyvy
  | 3 => .instr .convertIuyv
  | 4 => .instr .convertCyuv
  | 5 => .instr .convertY211
  | 6 => .rejected .reservedKid
  | _ => .rejected .noneKid

/-- `decode(c)` of R90 for a word written to CMD. -/
def decodeCmd (c : Word) : Decoded :=
  if cmdRsv c ≠ 0#27 then .rejected .reservedBits
  else if cmdOp c = 0b01#2 then
    if cmdKid c = 0b000#3 then .instr .select else .rejected .selectKid
  else if cmdOp c = 0b10#2 then decodeKid (cmdKid c)
  else .rejected .reservedOp

/-- A word written to SRC_TAG, against the source tag row (R84, R96). -/
def decodeSrcTag (w : Word) : Decoded :=
  if w = 0x32323449#32 then .instr .srcI422 else .rejected .unlistedSourceTag

/-- A word written to DST_TAG, against the destination tag rows: 32-bit equality (R82, R84, R96). -/
def decodeDstTag (w : Word) : Decoded :=
  if w = 0x32595559#32 then .instr .dstYuy2
  else if w = 0x564E5559#32 then .instr .dstYunv
  else if w = 0x55595659#32 then .instr .dstYvyu
  else if w = 0x59565955#32 then .instr .dstUyvy
  else if w = 0x564E5955#32 then .instr .dstUynv
  else if w = 0x32323459#32 then .instr .dstY422
  else if w = 0x56595549#32 then .instr .dstIuyv
  else if w = 0x76757963#32 then .instr .dstCyuv
  else if w = 0x31313259#32 then .instr .dstY211
  else .rejected .unlistedDestTag

/-- The decoder: a word in the format of the register it is written to. Total (R90, R93). -/
def decode (p : Port) (w : Word) : Decoded :=
  match p with
  | .cmd => decodeCmd w
  | .srcTag => decodeSrcTag w
  | .dstTag => decodeDstTag w

/-- A command word from its fields, with RSV zero (R86). -/
def cmdWord (op : BitVec 2) (kid : BitVec 3) : Word := 0#27 ++ kid ++ op

/-- The tag word of four characters, the first in bits 7:0 (R81). -/
def packTag (c0 c1 c2 c3 : Byte) : Word := c3 ++ c2 ++ c1 ++ c0

/-- The KID field of a layout (R85). -/
def Layout.kid : Layout → BitVec 3
  | .yuyv => 0 | .yvyu => 1 | .uyvy => 2 | .iuyv => 3 | .cyuv => 4 | .y211 => 5

/-- The CONVERT word of a layout (R90, R135). -/
def convertWord (l : Layout) : Word := cmdWord 0b10#2 l.kid

/-- The register and the word of a row: the fields of R86 for a command, the characters of R84 for
a tag. -/
def encode : Instr → Port × Word
  | .select => (.cmd, cmdWord 0b01#2 0b000#3)
  | .convertYuyv => (.cmd, convertWord .yuyv)
  | .convertYvyu => (.cmd, convertWord .yvyu)
  | .convertUyvy => (.cmd, convertWord .uyvy)
  | .convertIuyv => (.cmd, convertWord .iuyv)
  | .convertCyuv => (.cmd, convertWord .cyuv)
  | .convertY211 => (.cmd, convertWord .y211)
  | .srcI422 => (.srcTag, packTag 0x49#8 0x34#8 0x32#8 0x32#8)
  | .dstYuy2 => (.dstTag, packTag 0x59#8 0x55#8 0x59#8 0x32#8)
  | .dstYunv => (.dstTag, packTag 0x59#8 0x55#8 0x4E#8 0x56#8)
  | .dstYvyu => (.dstTag, packTag 0x59#8 0x56#8 0x59#8 0x55#8)
  | .dstUyvy => (.dstTag, packTag 0x55#8 0x59#8 0x56#8 0x59#8)
  | .dstUynv => (.dstTag, packTag 0x55#8 0x59#8 0x4E#8 0x56#8)
  | .dstY422 => (.dstTag, packTag 0x59#8 0x34#8 0x32#8 0x32#8)
  | .dstIuyv => (.dstTag, packTag 0x49#8 0x55#8 0x59#8 0x56#8)
  | .dstCyuv => (.dstTag, packTag 0x63#8 0x79#8 0x75#8 0x76#8)
  | .dstY211 => (.dstTag, packTag 0x59#8 0x32#8 0x31#8 0x31#8)

/-- The port whose format lists `w`: a row of one format is no row of another (log 22), and a word
that no tag row lists is a command word. -/
def tablePort (w : Word) : Port :=
  match decodeSrcTag w, decodeDstTag w with
  | .instr _, _ => .srcTag
  | _, .instr _ => .dstTag
  | _, _ => .cmd

/-- The instruction of a row of the opcode table, from its `nbits` bits `w`. -/
def decodeTableWord (nbits w : Nat) : Option Instr :=
  if nbits ≤ 32 ∧ w < 2 ^ nbits then
    match decode (tablePort (BitVec.ofNat 32 w)) (BitVec.ofNat 32 w) with
    | .instr i => some i
    | .rejected _ => none
  else none

end Sys2Proof
end

