-- ==== Sys2Proof/Machine/State.lean ====
section
/-! DEFINITION. The state of the machine (R20, R42), the host agent's program (R94), the outcomes a
step can end in, and the state at reset (R41, R200). -/

namespace Sys2Proof.Machine

/-- STATUS.CODE (R23, R92). Codes 6 and 7 are never written, so they have no constructor. -/
inductive StatusCode where
  | none | ok | unsupportedGeometry | unsupportedFormatPair | notImplemented | illegalCommand
  deriving DecidableEq, Repr

/-- The reasons of the refusal mark (R180). Each is a violation of a host duty that the document
leaves undefined. -/
inductive RefusalReason where
  /-- A command or a host read uses a register holding no value (R33). -/
  | unwrittenOperand
  /-- A host write to CMD or to an operand register while BUSY = 1 (R36). -/
  | writeWhileBusy
  /-- A CONVERT of an implemented kernel breaks R56, R57, R58 or R63. -/
  | convertPrecondition
  /-- The host or another copy of the block writes a pending CONVERT's buffers (R68, R73). -/
  | bufferWriteWhileBusy
  deriving DecidableEq, Repr

/-- Where a host access leaves what the spec describes, and the machine stops (log 13). The block
itself has no fault (93_implementation_defined.md, end of Part B). -/
inductive Fault where
  /-- Raised by a register access to a copy of the block that does not exist (R186). Safe. -/
  | noSuchInstance
  /-- Raised by a bus access to an address that REG_MAP does not hold (R21). Safe. -/
  | unmappedBusAddress
  /-- Raised by a host load or store at or above 2^ADDR_BITS (R50). Safe. -/
  | noSuchAddress
  /-- Raised by a host load or store of a location that is not ordinary memory, whose behaviour the
  spec does not give (R63). Safe. -/
  | deviceAccess
  deriving DecidableEq, Repr

/-- Why a step has no meaning. No step of this model is refused: the spec's own refusal (R180) is the mark
in State, and the run goes on (log 1). -/
inductive Refusal where
  /-- An instruction without a meaning yet. Raised by no arm of this model. Safe. -/
  | notModelled (mnemonic : String)
  deriving DecidableEq, Repr

/-- One copy of the block (R20, R42). CMD holds nothing (R22); BUSY is the view `pending.isSome`
(R37; log 20). `none` in an operand register is the spec's own "no value" (R33; log 17). A register
of ADDR_BITS bits is a number below 2^ADDR_BITS (R34; log 5). -/
structure Instance where
  /-- STATUS.CODE, index 1 (R23). -/
  status : StatusCode
  /-- KERNEL.KID, index 3; `none` is 7, NONE (R25). -/
  kernel : Option Layout
  /-- SRC_TAG, index 4 (R26). -/
  srcTag : Option Word
  /-- DST_TAG, index 5 (R27). -/
  dstTag : Option Word
  /-- WIDTH, index 6 (R28). -/
  width : Option Word
  /-- HEIGHT, index 7 (R29). -/
  height : Option Word
  /-- Y_BASE, index 8 (R30). -/
  yBase : Option Nat
  /-- Y_STRIDE, index 9 (R30). -/
  yStride : Option Nat
  /-- U_BASE, index 10 (R30). -/
  uBase : Option Nat
  /-- U_STRIDE, index 11 (R30). -/
  uStride : Option Nat
  /-- V_BASE, index 12 (R30). -/
  vBase : Option Nat
  /-- V_STRIDE, index 13 (R30). -/
  vStride : Option Nat
  /-- D_BASE, index 14 (R31). -/
  dBase : Option Nat
  /-- D_STRIDE, index 15 (R31). -/
  dStride : Option Nat
  /-- The pending-command record (R37). -/
  pending : Option Packer
  deriving DecidableEq, Repr

/-- Memory (R50): address and byte, in rising order, no entry equal to what an unlisted address reads
as. -/
abbrev Memory := List Host.Cell

/-- A value in a host line: a number or a temporary (R94). -/
inductive Operand where
  | imm (v : Nat)
  | tmp (t : Nat)
  deriving DecidableEq, Repr

/-- A line of a host program (R94). `k` names the copy of the block, `t` a host temporary; a label is
the number of the line it stands before (log 15). -/
inductive HostLine where
  /-- `wr NAME, value`. -/
  | wr (k : Nat) (r : RegName) (v : Operand)
  /-- `rd NAME -> t`. -/
  | rd (k : Nat) (r : RegName) (t : Nat)
  /-- `select`. -/
  | select (k : Nat)
  /-- `convert.yuyv` to `convert.y211`. -/
  | convert (k : Nat) (l : Layout)
  /-- `convert kid=t`. -/
  | convertKid (k : Nat) (t : Nat)
  /-- `cmd value`. -/
  | cmd (k : Nat) (v : Operand)
  /-- `wait`. -/
  | wait (k : Nat)
  /-- `if t != v goto L`. -/
  | ifNe (t : Nat) (v : Operand) (line : Nat)
  /-- `goto L`. -/
  | goto (line : Nat)
  /-- `stop`. -/
  | stop
  /-- `mem.b addr = v`. -/
  | memStore (a v : Operand)
  /-- `mem.b addr -> t`. -/
  | memLoad (a : Operand) (t : Nat)
  /-- The bus write behind `wr`, at a bus address that REG_MAP places (R21). -/
  | busWr (a v : Operand)
  /-- The bus read behind `rd`, at a bus address that REG_MAP places (R21). -/
  | busRd (a : Operand) (t : Nat)
  deriving DecidableEq, Repr

/-- What a host line does, its operands and its register named. -/
inductive Action where
  | write (k : Nat) (r : RegName) (v : Nat)
  | read (k : Nat) (r : RegName) (t : Nat)
  | wait (k : Nat)
  | jump (line : Nat)
  | store (a v : Nat)
  | load (a t : Nat)
  | halt
  | unmapped
  deriving DecidableEq, Repr

/-- A host thread (R18, R19, R94): its program, the line it has reached, its temporaries. -/
structure HostThread where
  prog : List HostLine
  line : Nat
  temps : List Nat
  deriving DecidableEq, Repr

/-- Which agent moves (R19): a host thread, the packer of a copy of the block, or reset (R200). -/
inductive Move where
  | host (t : Nat)
  | packer (k : Nat)
  | reset
  | idle
  deriving DecidableEq, Repr

/-- The machine: the parameters, the copies of the block, the memory and the refusal mark (R20), the
host threads (R19), and the model's own `target`, `schedule` and `drawn` (log 8, 11, 12). -/
structure State where
  /-- The parameters of R8; no step changes them. -/
  cfg : Config
  /-- The copies of the block (R20, R186). -/
  instances : List Instance
  /-- The one memory, shared with the host (R50). -/
  mem : Memory
  /-- The refusal mark (R180). -/
  refusal : Option RefusalReason
  /-- Which copy of the block the host's current access goes to (R186). -/
  target : Nat
  /-- The host threads (R19). -/
  threads : List HostThread
  /-- The moves still to come, the next one first. -/
  schedule : List Move
  /-- How many draws have been taken (R12). -/
  drawn : Nat
  deriving DecidableEq, Repr

/-- The reset state of one copy of the block (R41, R200). -/
def Instance.reset : Instance where
  status := .none
  kernel := none
  srcTag := none
  dstTag := none
  width := none
  height := none
  yBase := none
  yStride := none
  uBase := none
  uStride := none
  vBase := none
  vStride := none
  dBase := none
  dStride := none
  pending := none

/-- The machine at the start of a run, just reset (R41, R200). The parameters are those of
`Config.default` (log 3, 4); memory lists nothing (log 6); one host thread has an empty program, and
nothing is scheduled (log 10, 11). -/
def State.reset : State where
  cfg := .default
  instances := [Instance.reset]
  mem := []
  refusal := none
  target := 0
  threads := [{ prog := [], line := 0, temps := [] }]
  schedule := []
  drawn := 0

end Sys2Proof.Machine
end

