-- ==== Sys2Proof/Machine/Flags.lean ====
section
/-! DEFINITION. The result registers as the host reads them: STATUS (R23), BUSY (R24) and KERNEL
(R25). The block has no other flag (R39). -/

namespace Sys2Proof.Machine

/-- The status code (R92). -/
def StatusCode.code : StatusCode → BitVec 3
  | .none => 0
  | .ok => 1
  | .unsupportedGeometry => 2
  | .unsupportedFormatPair => 3
  | .notImplemented => 4
  | .illegalCommand => 5

/-- KERNEL.KID: the id of the resolved kernel, or 7, NONE (R25, R85). -/
def kernelField (k : Option Layout) : BitVec 3 :=
  match k with
  | some l => l.kid
  | none => 7#3

/-- BUSY: a CONVERT is in flight, that is, `pending` is not none (R24, R37). -/
def Instance.busy (d : Instance) : Bool := d.pending.isSome

/-- STATUS: CODE in bits 2:0, the rest 0 (R23). -/
def statusWord (d : Instance) : Word := d.status.code.setWidth 32

/-- BUSY: the flag in bit 0, the rest 0 (R24). -/
def busyWord (d : Instance) : Word := (BitVec.ofBool d.busy).setWidth 32

/-- KERNEL: KID in bits 2:0, the rest 0 (R25). -/
def kernelWord (d : Instance) : Word := (kernelField d.kernel).setWidth 32

end Sys2Proof.Machine
end

