-- ==== Sys2Proof/Machine/Ops.lean ====
section
/-! DEFINITION. The operations shared by every meaning: memory, the registers of one copy of the block,
the addressed copy, the refusal mark and the recording of an outcome. -/

namespace Sys2Proof

namespace Machine

/-- What an address that memory does not list reads as. DESIGN CHOICE (log 6). -/
def Memory.background : Byte := 0#8

/-- The canonical form of memory: addresses strictly rising, no entry equal to the background. -/
abbrev Memory.wf (m : Memory) : Prop :=
  m.Pairwise (fun a b => a.1 < b.1) ∧ ∀ c ∈ m, c.2 ≠ Memory.background

/-- `MemRead(a, 1)` (R12). -/
def Memory.read : Memory → Nat → Byte
  | [], _ => Memory.background
  | (k, b) :: m, a => if a = k then b else Memory.read m a

/-- `MemWrite(a, 1, b)` (R12), keeping the canonical form. -/
def Memory.write : Memory → Nat → Byte → Memory
  | [], a, b => if b = Memory.background then [] else [(a, b)]
  | (k, c) :: m, a, b =>
    if a < k then
      if b = Memory.background then (k, c) :: m else (a, b) :: (k, c) :: m
    else if a = k then
      if b = Memory.background then m else (a, b) :: m
    else (k, c) :: Memory.write m a b

/-- Several byte writes, in the order of the list. -/
def Memory.writeAll (m : Memory) (cells : List Host.Cell) : Memory :=
  cells.foldl (fun m c => Memory.write m c.1 c.2) m

end Machine

/-- The location of the `y`-th run of a region. -/
def Region.start (g : Region) (y : Nat) : Nat := g.base + y * g.stride

/-- Whether an address lies in the region (R54, R55). -/
def Region.contains (g : Region) (a : Nat) : Bool :=
  (List.range g.rows).any fun y => decide (g.start y ≤ a ∧ a < g.start y + g.extent)

/-- The addresses of the region, run after run. -/
def Region.addrs (g : Region) : List Nat :=
  (List.range g.rows).flatMap fun y => (List.range g.extent).map fun i => g.start y + i

/-- No run of one region meets a run of the other. -/
def Region.apart (g h : Region) : Bool :=
  (List.range g.rows).all fun y => (List.range h.rows).all fun z =>
    decide (g.extent = 0 ∨ h.extent = 0 ∨
      g.start y + g.extent ≤ h.start z ∨ h.start z + h.extent ≤ g.start y)

/-- The region does not wrap an address space of `bits` bits (R56). -/
def Region.fits (g : Region) (bits : Nat) : Bool :=
  decide (0 < g.rows → 0 < g.extent → g.base + (g.rows - 1) * g.stride + g.extent ≤ 2 ^ bits)

/-- ORDINARY (R63): the address lies in no window that is not ordinary memory. -/
def Config.ordinary (c : Config) (a : Nat) : Bool :=
  c.devices.all fun g => !g.contains a

/-- Where REG_MAP places a bus address (R21). -/
def Config.busTarget (c : Config) (a : Nat) : Option (Nat × RegName) := c.regMap.lookup a

namespace Machine

/-- The registers a host write changes and BUSY protects: indices 4 to 15 (R34, R36). -/
def isOperandReg : RegName → Bool
  | .cmd | .status | .busy | .kernel => false
  | .srcTag | .dstTag | .width | .height => true
  | .yBase | .yStride | .uBase | .uStride | .vBase | .vStride | .dBase | .dStride => true

/-- The width of a register in bits (R21). -/
def regWidth (c : Config) : RegName → Nat
  | .cmd | .status | .busy | .kernel | .srcTag | .dstTag | .width | .height => 32
  | .yBase | .yStride | .uBase | .uStride | .vBase | .vStride | .dBase | .dStride => c.addrBits

/-- The value a host read returns, if the register holds one (R22, R33, R34). CMD reads 0. -/
def Instance.readReg (d : Instance) : RegName → Option Nat
  | .cmd => some 0
  | .status => some (statusWord d).toNat
  | .busy => some (busyWord d).toNat
  | .kernel => some (kernelWord d).toNat
  | .srcTag => d.srcTag.map BitVec.toNat
  | .dstTag => d.dstTag.map BitVec.toNat
  | .width => d.width.map BitVec.toNat
  | .height => d.height.map BitVec.toNat
  | .yBase => d.yBase
  | .yStride => d.yStride
  | .uBase => d.uBase
  | .uStride => d.uStride
  | .vBase => d.vBase
  | .vStride => d.vStride
  | .dBase => d.dBase
  | .dStride => d.dStride

/-- An operand register takes the low bits of the value, as many as it is wide (R34). The other
registers keep their values (R35). -/
def Instance.writeReg (d : Instance) (c : Config) (r : RegName) (v : Nat) : Instance :=
  match r with
  | .cmd | .status | .busy | .kernel => d
  | .srcTag => { d with srcTag := some (BitVec.ofNat 32 v) }
  | .dstTag => { d with dstTag := some (BitVec.ofNat 32 v) }
  | .width => { d with width := some (BitVec.ofNat 32 v) }
  | .height => { d with height := some (BitVec.ofNat 32 v) }
  | .yBase => { d with yBase := some (v % 2 ^ c.addrBits) }
  | .yStride => { d with yStride := some (v % 2 ^ c.addrBits) }
  | .uBase => { d with uBase := some (v % 2 ^ c.addrBits) }
  | .uStride => { d with uStride := some (v % 2 ^ c.addrBits) }
  | .vBase => { d with vBase := some (v % 2 ^ c.addrBits) }
  | .vStride => { d with vStride := some (v % 2 ^ c.addrBits) }
  | .dBase => { d with dBase := some (v % 2 ^ c.addrBits) }
  | .dStride => { d with dStride := some (v % 2 ^ c.addrBits) }

/-- The outcome of one step or of one action. -/
abbrev Result := Host.Outcome State Fault Refusal

/-- Run `f` on the addressed copy of the block (R186). -/
def State.onTarget (s : State) (f : Instance → Result) : Result :=
  match s.instances[s.target]? with
  | some d => f d
  | none => .fault .noSuchInstance

/-- Replace the addressed copy of the block. -/
def State.setTarget (s : State) (d : Instance) : State :=
  { s with instances := s.instances.set s.target d }

/-- The host addresses copy `k` of the block. -/
def State.aim (s : State) (k : Nat) : State := { s with target := k }

/-- The state with the refusal mark set (R180). A mark that is set keeps its first reason (log 21). -/
def State.mark (s : State) (r : RefusalReason) : State :=
  { s with refusal := some (s.refusal.getD r) }

/-- A refused action (R180): it sets the refusal mark and does nothing else (log 1). -/
def State.refuse (s : State) (r : RefusalReason) : Result := .next (s.mark r)

/-- The one place an outcome is recorded (R170, R178): STATUS of the addressed copy `d` takes the
code. The block has no trap, so nothing else happens. -/
def State.report (s : State) (d : Instance) (c : StatusCode) : Result :=
  .next (s.setTarget { d with status := c })

/-- A host write of a word to CMD that decodes to ILLEGAL (R91, R174). -/
def illegalCommand (s : State) : Result :=
  s.onTarget fun d =>
    if d.busy then s.refuse .writeWhileBusy else s.report d .illegalCommand

/-- A host write of `v` to an operand register of the addressed copy (R34, R36). -/
def writeOperandReg (r : RegName) (v : Nat) (s : State) : Result :=
  s.onTarget fun d =>
    if d.busy then s.refuse .writeWhileBusy else .next (s.setTarget (d.writeReg s.cfg r v))

end Machine

end Sys2Proof
end

