-- ==== Sys2Proof/Machine/Operands.lean ====
section
/-! DEFINITION. The operands of a CONVERT: the descriptors it reads (R33, R135), the addresses they
give (R52, R53), the write set and read footprint (R54, R55) and the preconditions (R56 to R58, R63). -/

namespace Sys2Proof

/-- The layout of an implemented kernel. -/
def Packer.layout : Packer → Layout
  | .yuyv => .yuyv | .yvyu => .yvyu | .uyvy => .uyvy | .cyuv => .cyuv | .y211 => .y211

/-- `RB`, the bytes a kernel writes per row (R133). -/
def Packer.rowBytes (p : Packer) (w : Nat) : Nat :=
  match p with
  | .yuyv | .yvyu | .uyvy | .cyuv => 2 * w
  | .y211 => w

/-- `srcrow`: the source row whose bytes land in destination row `r` (R134). -/
def Packer.sourceRow (p : Packer) (h r : Nat) : Nat :=
  match p with
  | .yuyv | .yvyu | .uyvy => r
  | .cyuv | .y211 => h - 1 - r

namespace Machine

/-- The ten operands of a CONVERT of an implemented kernel (R135). -/
structure FrameDesc where
  width : Nat
  height : Nat
  yBase : Nat
  yStride : Nat
  uBase : Nat
  uStride : Nat
  vBase : Nat
  vStride : Nat
  dBase : Nat
  dStride : Nat
  deriving DecidableEq, Repr

/-- The three source planes (R16, R17). -/
inductive Plane where
  | y | u | v
  deriving DecidableEq, Repr

/-- The four operands of SELECT (R110). -/
structure SelectOperands where
  src : Word
  dst : Word
  width : Word
  height : Word
  deriving DecidableEq, Repr

/-- The operands of SELECT, if every one of the four registers holds a value (R33, R110). -/
def Instance.selectOperands? (d : Instance) : Option SelectOperands :=
  match d.srcTag, d.dstTag, d.width, d.height with
  | some src, some dst, some w, some h => some { src := src, dst := dst, width := w, height := h }
  | _, _, _, _ => none

/-- The operands, if every one of the ten registers holds a value (R33, R135). -/
def Instance.frame? (d : Instance) : Option FrameDesc :=
  match d.width, d.height, d.yBase, d.yStride, d.uBase, d.uStride, d.vBase, d.vStride,
      d.dBase, d.dStride with
  | some w, some h, some yb, some ys, some ub, some us, some vb, some vs, some db, some ds =>
    some { width := w.toNat, height := h.toNat, yBase := yb, yStride := ys, uBase := ub,
           uStride := us, vBase := vb, vStride := vs, dBase := db, dStride := ds }
  | _, _, _, _, _, _, _, _, _, _ => none

/-- The address of a source sample (R52). -/
def FrameDesc.sourceAddr (f : FrameDesc) (q : Plane) (column row : Nat) : Nat :=
  match q with
  | .y => f.yBase + row * f.yStride + column
  | .u => f.uBase + row * f.uStride + column
  | .v => f.vBase + row * f.vStride + column

/-- `Dst(i, r)` (R53). -/
def FrameDesc.dstAddr (f : FrameDesc) (i r : Nat) : Nat := f.dBase + r * f.dStride + i

/-- RF of one plane (R55): `W` bytes a row for luma, `P = W div 2` for chroma (R13). -/
def FrameDesc.plane (f : FrameDesc) : Plane → Region
  | .y => { base := f.yBase, stride := f.yStride, extent := f.width, rows := f.height }
  | .u => { base := f.uBase, stride := f.uStride, extent := f.width / 2, rows := f.height }
  | .v => { base := f.vBase, stride := f.vStride, extent := f.width / 2, rows := f.height }

/-- WS (R54). -/
def FrameDesc.writeSet (f : FrameDesc) (p : Packer) : Region :=
  { base := f.dBase, stride := f.dStride, extent := p.rowBytes f.width, rows := f.height }

/-- The region lies apart from RF. -/
def FrameDesc.footprintApart (f : FrameDesc) (g : Region) : Bool :=
  g.apart (f.plane .y) && g.apart (f.plane .u) && g.apart (f.plane .v)

/-- The address lies in RF (R55). -/
def FrameDesc.inFootprint (f : FrameDesc) (a : Nat) : Bool :=
  (f.plane .y).contains a || (f.plane .u).contains a ||
    (f.plane .v).contains a

/-- No wrap (R56). -/
def FrameDesc.noWrap (f : FrameDesc) (p : Packer) (bits : Nat) : Bool :=
  (f.plane .y).fits bits && (f.plane .u).fits bits &&
    (f.plane .v).fits bits && (f.writeSet p).fits bits

/-- Geometry and strides (R57). -/
def FrameDesc.shapeOk (f : FrameDesc) (p : Packer) : Bool :=
  decide (f.width % 2 = 0 ∧ f.height % 2 = 0 ∧ f.width ≤ f.yStride ∧ f.width / 2 ≤ f.uStride ∧
    f.width / 2 ≤ f.vStride ∧ p.rowBytes f.width ≤ f.dStride)

/-- No overlap of source and destination (R58). The source planes may overlap each other (R74). -/
def FrameDesc.noOverlap (f : FrameDesc) (p : Packer) : Bool := f.footprintApart (f.writeSet p)

/-- Every address of RF and WS is ordinary memory (R63). -/
def FrameDesc.allOrdinary (f : FrameDesc) (p : Packer) (c : Config) : Bool :=
  c.devices.all fun g => f.footprintApart g && g.apart (f.writeSet p)

/-- The preconditions of a CONVERT of an implemented kernel (R56, R57, R58, R63). -/
def FrameDesc.legal (f : FrameDesc) (p : Packer) (c : Config) : Bool :=
  f.noWrap p c.addrBits && f.shapeOk p && f.noOverlap p && f.allOrdinary p c

/-- The pending CONVERT of a copy of the block with its operands (R37). -/
def Instance.conversion? (d : Instance) : Option (Packer × FrameDesc) :=
  match d.pending, d.frame? with
  | some p, some f => some (p, f)
  | _, _ => none

/-- The value of a host operand (R94). A temporary that the thread has not set is 0 (log 15). -/
def Operand.value (temps : List Nat) : Operand → Nat
  | .imm v => v
  | .tmp t => temps.getD t 0

/-- A host temporary takes a value. -/
def setTemp : List Nat → Nat → Nat → List Nat
  | [], 0, v => [v]
  | [], t + 1, v => 0 :: setTemp [] t v
  | _ :: l, 0, v => v :: l
  | x :: l, t + 1, v => x :: setTemp l t v

end Machine

end Sys2Proof
end

