-- ==== Sys2Proof/Machine/Convert.lean ====
section
/-! DEFINITION. CONVERT, the packing kernels: the issue step (R135), the bytes a kernel writes (R137,
R138) and the packer's perform step (R136). -/

namespace Sys2Proof.Machine

/-- The plane and column that output byte `i` of a row copies (R138). The chroma column `2k` of Y211
is the spec's decision D16 (log 16). -/
def byteSource (p : Packer) (i : Nat) : Plane × Nat :=
  let k := i / 4
  match p, i % 4 with
  | .yuyv, 0 => (.y, 2 * k)
  | .yuyv, 1 => (.u, k)
  | .yuyv, 2 => (.y, 2 * k + 1)
  | .yuyv, _ => (.v, k)
  | .yvyu, 0 => (.y, 2 * k)
  | .yvyu, 1 => (.v, k)
  | .yvyu, 2 => (.y, 2 * k + 1)
  | .yvyu, _ => (.u, k)
  | .uyvy, 0 => (.u, k)
  | .uyvy, 1 => (.y, 2 * k)
  | .uyvy, 2 => (.v, k)
  | .uyvy, _ => (.y, 2 * k + 1)
  | .cyuv, 0 => (.u, k)
  | .cyuv, 1 => (.y, 2 * k)
  | .cyuv, 2 => (.v, k)
  | .cyuv, _ => (.y, 2 * k + 1)
  | .y211, 0 => (.y, 4 * k)
  | .y211, 1 => (.u, 2 * k)
  | .y211, 2 => (.y, 4 * k + 2)
  | .y211, _ => (.v, 2 * k)

/-- A source sample (R14, R52). -/
def sample (m : Memory) (f : FrameDesc) (q : Plane) (column row : Nat) : Byte :=
  Memory.read m (f.sourceAddr q column row)

/-- `byte(kid, i, y)` of R138: a copy of one source sample. -/
def outputByte (m : Memory) (p : Packer) (f : FrameDesc) (i y : Nat) : Byte :=
  sample m f (byteSource p i).1 (byteSource p i).2 y

/-- The writes of `pack` (R137): every byte of WS and its value, read from `m` as it was before. -/
def packCells (m : Memory) (p : Packer) (f : FrameDesc) : List Host.Cell :=
  (List.range f.height).flatMap fun r =>
    (List.range (p.rowBytes f.width)).map fun i =>
      (f.dstAddr i r, outputByte m p f i (p.sourceRow f.height r))

/-- `pack(kid)` (R137). -/
def packFrame (m : Memory) (p : Packer) (f : FrameDesc) : Memory :=
  Memory.writeAll m (packCells m p f)

/-- Where a kernel's known inverse unpacking finds luma column `x` in a row (R146). -/
def lumaByte (p : Packer) (x : Nat) : Nat :=
  match p with
  | .yuyv | .yvyu => 2 * x
  | .uyvy | .cyuv => 2 * x + 1
  | .y211 => x

/-- Where a kernel's known inverse unpacking finds chroma-U column `j` in a row (R146). -/
def chromaUByte (p : Packer) (j : Nat) : Nat :=
  match p with
  | .yuyv => 4 * j + 1
  | .yvyu => 4 * j + 3
  | .uyvy | .cyuv => 4 * j
  | .y211 => 2 * j + 1

/-- Where a kernel's known inverse unpacking finds chroma-V column `j` in a row (R146). -/
def chromaVByte (p : Packer) (j : Nat) : Nat :=
  match p with
  | .yuyv => 4 * j + 3
  | .yvyu => 4 * j + 1
  | .uyvy | .cyuv => 4 * j + 2
  | .y211 => 2 * j + 3

/-- The issue step of a CONVERT of an implemented kernel (R135). STATUS and KERNEL keep their values. -/
def issueConvert (p : Packer) (s : State) : Result :=
  s.onTarget fun d =>
    if d.busy then s.refuse .writeWhileBusy
    else match d.frame? with
      | none => s.refuse .unwrittenOperand
      | some f =>
        if f.legal p s.cfg then .next (s.setTarget { d with pending := some p })
        else s.refuse .convertPrecondition

/-- CONVERT.YUYV (R140). -/
def execConvertYuyv (s : State) : Result := issueConvert .yuyv s

/-- CONVERT.YVYU (R141). -/
def execConvertYvyu (s : State) : Result := issueConvert .yvyu s

/-- CONVERT.UYVY (R142). -/
def execConvertUyvy (s : State) : Result := issueConvert .uyvy s

/-- CONVERT.IUYV (R143): NOT_IMPLEMENTED in the issue step. It reads no operand and no memory. -/
def execConvertIuyv (s : State) : Result :=
  s.onTarget fun d =>
    if d.busy then s.refuse .writeWhileBusy else s.report d .notImplemented

/-- CONVERT.CYUV (R144). -/
def execConvertCyuv (s : State) : Result := issueConvert .cyuv s

/-- CONVERT.Y211 (R145). -/
def execConvertY211 (s : State) : Result := issueConvert .y211 s

/-- Two conversions may be pending at once only if each one's WS is disjoint from the other's WS and
RF (R73; log 14). -/
def compatible (a b : Packer × FrameDesc) : Bool :=
  (a.2.writeSet a.1).apart (b.2.writeSet b.1) &&
    b.2.footprintApart (a.2.writeSet a.1) && a.2.footprintApart (b.2.writeSet b.1)

/-- Another copy of the block than `k` has a conversion pending that `a` may not run beside (R68,
R73). -/
def conflictsWith (s : State) (k : Nat) (a : Packer × FrameDesc) : Bool :=
  s.instances.zipIdx.any fun (d, j) =>
    j != k && (match d.conversion? with
      | some b => !compatible a b
      | none => false)

/-- The packer's perform step of copy `k` (R136): all of WS, STATUS, `pending` and BUSY in one atomic
step. Where no CONVERT is pending the step is not enabled and changes nothing. A pending CONVERT has
its operands in every state a run reaches; were one missing, the read of it is refused (R33; log 27). -/
def perform (k : Nat) (s : State) : Result :=
  match s.instances[k]? with
  | none => .next s
  | some d =>
    match d.pending with
    | none => .next s
    | some p =>
      match d.frame? with
      | none => s.refuse .unwrittenOperand
      | some f =>
        if conflictsWith s k (p, f) then s.refuse .bufferWriteWhileBusy
        else .next { s with
          mem := packFrame s.mem p f
          instances := s.instances.set k { d with status := .ok, pending := none } }

end Sys2Proof.Machine
end

