-- ==== Sys2Proof/Machine/Selector.lean ====
section
/-! DEFINITION. SELECT, the format selector mux (R110 to R123). -/

namespace Sys2Proof.Machine

/-- `sel` of R111: the tests in the priority order of R120. `none` is KERNEL = NONE. -/
def selector (c : Config) (src dst w h : Word) : StatusCode × Option Layout :=
  if w.toNat % 2 ≠ 0 ∨ h.toNat % 2 ≠ 0 then (.unsupportedGeometry, none)
  else if src ≠ c.tagTable.src422 then (.unsupportedFormatPair, none)
  else match c.tagTable.dst.lookup dst with
    | none => (.unsupportedFormatPair, none)
    | some l =>
      if l = .iuyv ∧ c.selectRejectsIuyv = true then (.notImplemented, none) else (.ok, some l)

/-- SELECT completes in the step that issues it: STATUS and KERNEL take the result, nothing else
changes (R118). -/
def completeSelect (s : State) (d : Instance) (result : StatusCode × Option Layout) : Result :=
  s.report { d with kernel := result.2 } result.1

/-- SELECT (R110, R111): refused while BUSY (R36) and with an operand that holds no value (R33). -/
def execSelect (s : State) : Result :=
  s.onTarget fun d =>
    if d.busy then s.refuse .writeWhileBusy
    else match d.selectOperands? with
      | some o => completeSelect s d (selector s.cfg o.src o.dst o.width o.height)
      | none => s.refuse .unwrittenOperand

end Sys2Proof.Machine
end

