-- ==== Sys2Proof/Machine/Tags.lean ====
section
/-! DEFINITION. The tag rows of the opcode table (R84, R96): the host writes the row's tag word to
SRC_TAG (R26) or DST_TAG (R27). What SELECT makes of the word is `selector` (log 7). -/

namespace Sys2Proof.Machine

/-- SRC.I422, 'I422' (R84, R113). -/
def execSrcI422 (s : State) : Result := writeOperandReg .srcTag 0x32323449 s

/-- DST.YUY2, 'YUY2' (R84, R114). -/
def execDstYuy2 (s : State) : Result := writeOperandReg .dstTag 0x32595559 s

/-- DST.YUNV, 'YUNV' (R84, R114). -/
def execDstYunv (s : State) : Result := writeOperandReg .dstTag 0x564E5559 s

/-- DST.YVYU, 'YVYU' (R84, R114). -/
def execDstYvyu (s : State) : Result := writeOperandReg .dstTag 0x55595659 s

/-- DST.UYVY, 'UYVY' (R84, R114). -/
def execDstUyvy (s : State) : Result := writeOperandReg .dstTag 0x59565955 s

/-- DST.UYNV, 'UYNV' (R84, R114). -/
def execDstUynv (s : State) : Result := writeOperandReg .dstTag 0x564E5955 s

/-- DST.Y422, 'Y422' (R84, R114). -/
def execDstY422 (s : State) : Result := writeOperandReg .dstTag 0x32323459 s

/-- DST.IUYV, 'IUYV' (R84, R114, R117). -/
def execDstIuyv (s : State) : Result := writeOperandReg .dstTag 0x56595549 s

/-- DST.cyuv, 'cyuv' (R84, R114). -/
def execDstCyuv (s : State) : Result := writeOperandReg .dstTag 0x76757963 s

/-- DST.Y211, 'Y211' (R84, R114). -/
def execDstY211 (s : State) : Result := writeOperandReg .dstTag 0x31313259 s

end Sys2Proof.Machine
end

