-- ==== Sys2Proof/Machine/Dispatch.lean ====
section
/-! DEFINITION. One arm per row of the opcode table. -/

namespace Sys2Proof.Machine

/-- What the host's delivery of the row's word does to the addressed copy of the block. -/
def exec (i : Instr) (s : State) : Host.Outcome State Fault Refusal :=
  match i with
  | .select => Sys2Proof.Machine.execSelect s
  | .convertYuyv => Sys2Proof.Machine.execConvertYuyv s
  | .convertYvyu => Sys2Proof.Machine.execConvertYvyu s
  | .convertUyvy => Sys2Proof.Machine.execConvertUyvy s
  | .convertIuyv => Sys2Proof.Machine.execConvertIuyv s
  | .convertCyuv => Sys2Proof.Machine.execConvertCyuv s
  | .convertY211 => Sys2Proof.Machine.execConvertY211 s
  | .srcI422 => Sys2Proof.Machine.execSrcI422 s
  | .dstYuy2 => Sys2Proof.Machine.execDstYuy2 s
  | .dstYunv => Sys2Proof.Machine.execDstYunv s
  | .dstYvyu => Sys2Proof.Machine.execDstYvyu s
  | .dstUyvy => Sys2Proof.Machine.execDstUyvy s
  | .dstUynv => Sys2Proof.Machine.execDstUynv s
  | .dstY422 => Sys2Proof.Machine.execDstY422 s
  | .dstIuyv => Sys2Proof.Machine.execDstIuyv s
  | .dstCyuv => Sys2Proof.Machine.execDstCyuv s
  | .dstY211 => Sys2Proof.Machine.execDstY211 s

end Sys2Proof.Machine
end

