-- ==== Sys2Proof/Machine/Agents.lean ====
section
/-! DEFINITION. What each agent does when it moves: the host threads (R18, R19, R94), the packers
(R136), reset (R200, R201), and which agent moves next. -/

namespace Sys2Proof.Machine

/-- The host delivers the word `w` to CMD, SRC_TAG or DST_TAG of copy `k`: a row of the opcode table
runs; any other command word is ILLEGAL (R91); any other tag word is only a register value (R34, R93). -/
def deliver (k : Nat) (p : Port) (w : Word) (s : State) : Result :=
  match decode p w with
  | .instr i => exec i (s.aim k)
  | .rejected _ =>
    match p with
    | .cmd => illegalCommand (s.aim k)
    | .srcTag => writeOperandReg .srcTag w.toNat (s.aim k)
    | .dstTag => writeOperandReg .dstTag w.toNat (s.aim k)

/-- The port of a register whose words the opcode table lists. -/
def portOf : RegName → Option Port
  | .cmd => some .cmd
  | .srcTag => some .srcTag
  | .dstTag => some .dstTag
  | _ => none

/-- A host write of `v` to register `r` of copy `k` (R34 to R36). R34 keeps the low bits of a value too
wide for an RW register; that CMD, which is write-only, also takes the low 32 bits of `v` is a DESIGN
CHOICE (log 31). -/
def writeRegister (k : Nat) (r : RegName) (v : Nat) (s : State) : Result :=
  match portOf r with
  | some p => deliver k p (BitVec.ofNat 32 v) s
  | none =>
    if isOperandReg r then writeOperandReg r v (s.aim k)
    else (s.aim k).onTarget fun _ => .next (s.aim k)

/-- Thread `t` becomes `f` of itself. -/
def State.updThread (s : State) (t : Nat) (f : HostThread → HostThread) : State :=
  { s with threads := s.threads.modify t f }

/-- Thread `t` goes to its next line. -/
def State.advance (s : State) (t : Nat) : State :=
  s.updThread t fun th => { th with line := th.line + 1 }

/-- Thread `t` goes to line `l`. -/
def State.jump (s : State) (t l : Nat) : State := s.updThread t fun th => { th with line := l }

/-- Temporary `x` of thread `t` takes `v`. -/
def State.putTemp (s : State) (t x v : Nat) : State :=
  s.updThread t fun th => { th with temps := setTemp th.temps x v }

/-- A host read of register `r` of copy `k` into temporary `x` of thread `t` (R34); a register that
holds no value is refused (R33). Allowed while BUSY (R36). -/
def readRegister (k : Nat) (r : RegName) (t x : Nat) (s : State) : Result :=
  (s.aim k).onTarget fun d =>
    match d.readReg r with
    | some v => .next ((s.aim k).putTemp t x v)
    | none => (s.aim k).refuse .unwrittenOperand

/-- `wait` (R94): one read of BUSY; the thread stays at the line until it reads 0. -/
def waitIdle (k t : Nat) (s : State) : Result :=
  (s.aim k).onTarget fun d => if d.busy then .next (s.aim k) else .next ((s.aim k).advance t)

/-- The address lies in the write set of a pending CONVERT. -/
def inPendingWriteSet (s : State) (a : Nat) : Bool :=
  s.instances.any fun d =>
    match d.conversion? with
    | some (p, f) => (f.writeSet p).contains a
    | none => false

/-- The address lies in the read footprint of a pending CONVERT. -/
def inPendingFootprint (s : State) (a : Nat) : Bool :=
  s.instances.any fun d =>
    match d.conversion? with
    | some (_, f) => f.inFootprint a
    | none => false

/-- A host byte store (R94): refused in the buffers of a pending CONVERT (R68). That a value above 255
stores its low 8 bits is a DESIGN CHOICE (log 30). -/
def hostStore (a v : Nat) (s : State) : Result :=
  if 2 ^ s.cfg.addrBits ≤ a then .fault .noSuchAddress
  else if s.cfg.ordinary a = false then .fault .deviceAccess
  else if inPendingWriteSet s a || inPendingFootprint s a then s.refuse .bufferWriteWhileBusy
  else .next { s with mem := Memory.write s.mem a (BitVec.ofNat 8 v) }

/-- A host byte load (R94): a draw in the write set of a pending CONVERT (R67). -/
def hostLoad (a t x : Nat) (s : State) : Result :=
  if 2 ^ s.cfg.addrBits ≤ a then .fault .noSuchAddress
  else if s.cfg.ordinary a = false then .fault .deviceAccess
  else if inPendingWriteSet s a then
    .next ({ s with drawn := s.drawn + 1 }.putTemp t x (Config.draw s.drawn).toNat)
  else .next (s.putTemp t x (Memory.read s.mem a).toNat)

/-- What a host line does (R94): the commands are writes of CMD, a bus access goes where REG_MAP
places it (R21). That `mem.b` reaches memory and no register, at an address that REG_MAP holds too, is a
DESIGN CHOICE (R51; log 32). -/
def lineAction (c : Config) (th : HostThread) (l : HostLine) : Action :=
  match l with
  | .wr k r v => .write k r (v.value th.temps)
  | .rd k r t => .read k r t
  | .select k => .write k .cmd 1
  | .convert k l => .write k .cmd (convertWord l).toNat
  | .convertKid k t => .write k .cmd (2 + 4 * th.temps.getD t 0)
  | .cmd k v => .write k .cmd (v.value th.temps)
  | .wait k => .wait k
  | .ifNe t v line => if th.temps.getD t 0 ≠ v.value th.temps then .jump line else .jump (th.line + 1)
  | .goto line => .jump line
  | .stop => .halt
  | .memStore a v => .store (a.value th.temps) (v.value th.temps)
  | .memLoad a t => .load (a.value th.temps) t
  | .busWr a v =>
    match c.busTarget (a.value th.temps) with
    | some (k, r) => .write k r (v.value th.temps)
    | none => .unmapped
  | .busRd a t =>
    match c.busTarget (a.value th.temps) with
    | some (k, r) => .read k r t
    | none => .unmapped

/-- Thread `t` does the action. A line that does not branch or wait goes on to the next line. -/
def runAction (t : Nat) (a : Action) (s : State) : Result :=
  match a with
  | .write k r v => writeRegister k r v (s.advance t)
  | .read k r x => readRegister k r t x (s.advance t)
  | .wait k => waitIdle k t s
  | .jump l => .next (s.jump t l)
  | .store a v => hostStore a v (s.advance t)
  | .load a x => hostLoad a t x (s.advance t)
  | .halt => .next s
  | .unmapped => .fault .unmappedBusAddress

/-- The action of the line that thread `t` has reached; none at the end of its program. -/
def fetchAction (s : State) (t : Nat) : Option Action :=
  match s.threads[t]? with
  | none => none
  | some th =>
    match th.prog[th.line]? with
    | none => none
    | some l => some (lineAction s.cfg th l)

/-- Host thread `t` runs its line; a thread that has ended does nothing. -/
def runThread (t : Nat) (s : State) : Result :=
  match fetchAction s t with
  | some a => runAction t a s
  | none => .next s

/-- Every address of `addrs` takes a draw of its own (R201). -/
def scramble (s : State) (addrs : List Nat) : State :=
  addrs.foldl (fun s a =>
    { s with mem := Memory.write s.mem a (Config.draw s.drawn), drawn := s.drawn + 1 }) s

/-- The addresses of the write sets of all pending CONVERTs. -/
def pendingAddrs (s : State) : List Nat :=
  s.instances.flatMap fun d =>
    match d.conversion? with
    | some (p, f) => (f.writeSet p).addrs
    | none => []

/-- Reset (R200, R201): the write sets of the pending CONVERTs hold draws, every copy of the block
takes its reset state, other memory and the refusal mark keep their values (R41). -/
def resetBlock (s : State) : State :=
  { scramble s (pendingAddrs s) with instances := s.instances.map fun _ => Instance.reset }

/-- A thread that has a line to run which is not `stop`. -/
def HostThread.live (th : HostThread) : Bool :=
  match th.prog[th.line]? with
  | none => false
  | some .stop => false
  | some _ => true

/-- Who moves when nothing is scheduled: the first pending CONVERT's packer, then the first live host
thread, then nobody (R214; DESIGN CHOICE, log 8, 9). -/
def defaultMove (s : State) : Move :=
  match s.instances.findIdx? (·.busy) with
  | some k => .packer k
  | none =>
    match s.threads.findIdx? (·.live) with
    | some t => .host t
    | none => .idle

/-- The next move, and the state with it taken off the schedule. -/
def nextMove (s : State) : Move × State :=
  match s.schedule with
  | m :: ms => (m, { s with schedule := ms })
  | [] => (defaultMove s, s)

/-- One move of one agent. The run goes on after a refused action, with the mark kept (R180; log 1). -/
def runMove (m : Move) (s : State) : Result :=
  match m with
  | .host t => runThread t s
  | .packer k => perform k s
  | .reset => .next (resetBlock s)
  | .idle => .next s

/-- The host line that delivers a word to a port of copy 0. -/
def deliveryLine (p : Port) (w : Nat) : HostLine :=
  match p with
  | .cmd => .cmd 0 (.imm w)
  | .srcTag => .wr 0 .srcTag (.imm w)
  | .dstTag => .wr 0 .dstTag (.imm w)

/-- The line a thread runs next becomes `l`. -/
def HostThread.place (th : HostThread) (l : HostLine) : HostThread :=
  { th with prog := th.prog.takeD th.line .stop ++ l :: th.prog.drop (th.line + 1) }

/-- The first host thread's next line becomes `l`; where there is no thread, one that has it. -/
def placeLine (threads : List HostThread) (l : HostLine) : List HostThread :=
  match threads with
  | [] => [{ prog := [l], line := 0, temps := [] }]
  | th :: rest => th.place l :: rest

/-- `negotiate src, dst, w, h` (R95), on copy `k`, reading STATUS into `ts` and KERNEL into `tk`. -/
def negotiateLines (k : Nat) (src dst w h : Operand) (ts tk : Nat) : List HostLine :=
  [.wr k .srcTag src, .wr k .dstTag dst, .wr k .width w, .wr k .height h, .select k,
   .rd k .status ts, .rd k .kernel tk]

/-- `frame yb,ys, ub,us, vb,vs, db,ds, k` (R95), on copy `k`, with the kernel id in temporary `tk`,
reading STATUS into `ts`. -/
def frameLines (k : Nat) (yb ys ub us vb vs db ds : Operand) (tk ts : Nat) : List HostLine :=
  [.wr k .yBase yb, .wr k .yStride ys, .wr k .uBase ub, .wr k .uStride us,
   .wr k .vBase vb, .wr k .vStride vs, .wr k .dBase db, .wr k .dStride ds,
   .convertKid k tk, .wait k, .rd k .status ts]

end Sys2Proof.Machine
end

