-- ==== Sys2Proof/Machine/Step.lean ====
section
/-! DEFINITION. One step: one agent moves. -/

namespace Sys2Proof.Machine

/-- One move of the agent whose turn it is. -/
def step (s : State) : Host.Outcome State Fault Refusal :=
  runMove (nextMove s).1 (nextMove s).2

/-- The state whose very next step is host thread 0 delivering the row's word to copy 0 of the block
(log 10): the next move is that thread's and its next line is the write of the word. -/
def State.withFetchWord (s : State) (nbits w : Nat) : State :=
  { s with
    schedule := .host 0 :: s.schedule
    threads := placeLine s.threads (deliveryLine (tablePort (BitVec.ofNat 32 w)) (w % 2 ^ nbits)) }

end Sys2Proof.Machine
end

