-- ==== Sys2Proof/Safety.lean ====
section
/-! DEFINITION. What claims speak of: runs without a refused action (R180), the end of a run (R216),
and the invariant of the machine. -/

namespace Sys2Proof.Machine

/-- No refused action so far: the premise of every claim about a run (R180). -/
abbrev State.clean (s : State) : Prop := s.refusal = none

/-- How many CONVERTs are pending (R37). -/
def State.pendingCount (s : State) : Nat := s.instances.countP (·.busy)

/-- The row of the opcode table that issues a kernel (R90). -/
def convertInstr : Packer → Instr
  | .yuyv => .convertYuyv
  | .yvyu => .convertYvyu
  | .uyvy => .convertUyvy
  | .cyuv => .convertCyuv
  | .y211 => .convertY211

/-- The registers a CONVERT of an implemented kernel reads (R33). -/
def convertRegs : List RegName :=
  [.width, .height, .yBase, .yStride, .uBase, .uStride, .vBase, .vStride, .dBase, .dStride]

/-- The CONVERT of kernel `p`, with operands `f`, runs from `s` to `u` on the addressed copy `d`: the
issue makes it pending, with STATUS and everything else as before (R135); the perform step then makes
STATUS OK and BUSY 0, and touches no register else and no byte outside the write set (R62, R136). -/
structure Converts (p : Packer) (s : State) (d : Instance) (f : FrameDesc) (u : State) : Prop where
  issue : exec (convertInstr p) s = .next (s.setTarget { d with pending := some p })
  perform : perform s.target (s.setTarget { d with pending := some p }) = .next u
  registers : u = { s with
    mem := u.mem, instances := s.instances.set s.target { d with status := .ok, pending := none } }
  outside : ∀ a, (f.writeSet p).contains a = false → Memory.read u.mem a = Memory.read s.mem a

/-- The four bytes of macro-unit `k` of destination row `r` (R132). -/
def unitBytes (m : Memory) (f : FrameDesc) (k r : Nat) : List Byte :=
  [Memory.read m (f.dstAddr (4 * k) r), Memory.read m (f.dstAddr (4 * k + 1) r),
   Memory.read m (f.dstAddr (4 * k + 2) r), Memory.read m (f.dstAddr (4 * k + 3) r)]

/-- The end of a run: the host has stopped and no CONVERT is pending (R216). -/
def State.final (s : State) : Bool :=
  s.threads.all (fun th => !th.live) && s.instances.all fun d => !d.busy

/-- Every register of ADDR_BITS bits holds a number of that many bits (R21, R34). -/
def Instance.addrsInRange (d : Instance) (bits : Nat) : Prop :=
  ∀ v, (d.yBase = some v ∨ d.yStride = some v ∨ d.uBase = some v ∨ d.uStride = some v ∨
    d.vBase = some v ∨ d.vStride = some v ∨ d.dBase = some v ∨ d.dStride = some v) → v < 2 ^ bits

/-- A pending CONVERT has its operands, and they meet its preconditions (R135). -/
def Instance.pendingLegal (d : Instance) (c : Config) : Prop :=
  ∀ p, d.pending = some p → ∃ f, d.frame? = some f ∧ f.legal p c = true

/-- The invariant of the machine: the parameters are as R8 asks, memory is canonical and inside its address space (R50), the
addressed copy of the block exists, and every copy has registers in range and no illegal CONVERT
pending. -/
structure State.Inv (s : State) : Prop where
  parametersOk : s.cfg.wf s.instances.length = true
  memCanonical : Memory.wf s.mem
  memInRange : ∀ c ∈ s.mem, c.1 < 2 ^ s.cfg.addrBits
  targetExists : s.target < s.instances.length
  addrsInRange : ∀ d ∈ s.instances, d.addrsInRange s.cfg.addrBits
  pendingLegal : ∀ d ∈ s.instances, d.pendingLegal s.cfg

end Sys2Proof.Machine
end

