-- ==== Sys2Proof/Certificates/Slice0/Obligations.lean ====
section
/-! DEFINITION. The statements about the machine, from the numbered rules of the spec. -/

open Sys2Proof Sys2Proof.Machine

/-! ## Encoding -/

/-- R84, R90, R96: a word written to a register is a row of the opcode table exactly when it is that
row's word and register. Both directions: the encoder and the decoder agree, and no other word is a
row. The tag spellings are the default of R84 (log 4). -/
def Obligations.DecodeEncodeExact : Prop :=
  ∀ (p : Port) (w : Word) (i : Instr), decode p w = .instr i ↔ encode i = (p, w)

/-- R90: the legal command words are exactly seven, each with its command; every other word is
ILLEGAL. -/
def Obligations.CommandWordsExact : Prop :=
  ∀ c : Word,
    (decode .cmd c = .instr .select ↔ c = 0x00000001#32) ∧
    (decode .cmd c = .instr .convertYuyv ↔ c = 0x00000002#32) ∧
    (decode .cmd c = .instr .convertYvyu ↔ c = 0x00000006#32) ∧
    (decode .cmd c = .instr .convertUyvy ↔ c = 0x0000000A#32) ∧
    (decode .cmd c = .instr .convertIuyv ↔ c = 0x0000000E#32) ∧
    (decode .cmd c = .instr .convertCyuv ↔ c = 0x00000012#32) ∧
    (decode .cmd c = .instr .convertY211 ↔ c = 0x00000016#32) ∧
    ((∃ e, decode .cmd c = .rejected e) ↔
      c ∉ [0x00000001#32, 0x00000002#32, 0x00000006#32, 0x0000000A#32, 0x0000000E#32,
           0x00000012#32, 0x00000016#32])

/-- R84, R90, R91: a few words of the spec's own vectors. The three tag words are those of the default
table of R84, which is presumed (log 4). -/
def Obligations.SpecWordsDecode : Prop :=
  decode .cmd 0x00000001#32 = .instr .select ∧
  decode .cmd 0x00000012#32 = .instr .convertCyuv ∧
  decode .cmd 0x0000001E#32 = .rejected .noneKid ∧
  decode .cmd 0x00000005#32 = .rejected .selectKid ∧
  decode .cmd 0x80000001#32 = .rejected .reservedBits ∧
  decode .srcTag 0x32323449#32 = .instr .srcI422 ∧
  decode .dstTag 0x76757963#32 = .instr .dstCyuv ∧
  decode .dstTag 0x56555943#32 = .rejected .unlistedDestTag

/-- R81: the tag word of four characters is `c0 + 256*c1 + 65536*c2 + 16777216*c3`. -/
def Obligations.TagWordPacking : Prop :=
  ∀ c0 c1 c2 c3 : Byte,
    (packTag c0 c1 c2 c3).toNat =
      c0.toNat + 256 * c1.toNat + 65536 * c2.toNat + 16777216 * c3.toNat

/-! ## SELECT -/

/-- R111, R118: on an idle copy whose four operands hold values, SELECT completes: STATUS and KERNEL
take the selector's result and nothing else changes. -/
def Obligations.SelectCompletes : Prop :=
  ∀ (s : State) (d : Instance) (o : SelectOperands),
    s.instances[s.target]? = some d → d.busy = false → d.selectOperands? = some o →
    exec .select s = .next (s.setTarget { d with
      status := (selector s.cfg o.src o.dst o.width o.height).1
      kernel := (selector s.cfg o.src o.dst o.width o.height).2 })

/-- R112, R120: an odd width or height gives UNSUPPORTED_GEOMETRY and KERNEL = NONE whatever the
tags. Parity is bit 0 of the register. -/
def Obligations.OddGeometryRejected : Prop :=
  ∀ (s : State) (d : Instance) (o : SelectOperands),
    s.instances[s.target]? = some d → d.busy = false → d.selectOperands? = some o →
    (o.width.getLsbD 0 = true ∨ o.height.getLsbD 0 = true) →
    exec .select s = .next (s.setTarget { d with status := .unsupportedGeometry, kernel := none })

/-- R113, R116: with even geometry, a source tag other than the planar 4:2:2 tag, or a destination tag
that TAG_TABLE does not list, gives UNSUPPORTED_FORMAT_PAIR and KERNEL = NONE. -/
def Obligations.FormatPairRejected : Prop :=
  ∀ (s : State) (d : Instance) (o : SelectOperands),
    s.instances[s.target]? = some d → d.busy = false → d.selectOperands? = some o →
    o.width.getLsbD 0 = false → o.height.getLsbD 0 = false →
    (o.src ≠ s.cfg.tagTable.src422 ∨ ∀ l, (o.dst, l) ∉ s.cfg.tagTable.dst) →
    exec .select s = .next (s.setTarget { d with status := .unsupportedFormatPair, kernel := none })

/-- R114: with even geometry and the planar 4:2:2 source, a destination tag that an unambiguous
TAG_TABLE lists resolves to the kernel of its layout (IUYV apart, which is the next statement). -/
def Obligations.MuxResolves : Prop :=
  ∀ (s : State) (d : Instance) (o : SelectOperands) (l : Layout),
    s.instances[s.target]? = some d → d.busy = false → d.selectOperands? = some o →
    o.width.getLsbD 0 = false → o.height.getLsbD 0 = false →
    s.cfg.tagTable.unambiguous = true → o.src = s.cfg.tagTable.src422 →
    (o.dst, l) ∈ s.cfg.tagTable.dst → l ≠ .iuyv →
    exec .select s = .next (s.setTarget { d with status := .ok, kernel := some l })

/-- R117: an IUYV tag gives NOT_IMPLEMENTED at SELECT when SELECT_REJECTS_IUYV is true, and kernel
IUYV when it is false. -/
def Obligations.IuyvAtSelect : Prop :=
  ∀ (s : State) (d : Instance) (o : SelectOperands),
    s.instances[s.target]? = some d → d.busy = false → d.selectOperands? = some o →
    o.width.getLsbD 0 = false → o.height.getLsbD 0 = false →
    s.cfg.tagTable.unambiguous = true → o.src = s.cfg.tagTable.src422 →
    (o.dst, Layout.iuyv) ∈ s.cfg.tagTable.dst →
    (s.cfg.selectRejectsIuyv = true →
      exec .select s = .next (s.setTarget { d with status := .notImplemented, kernel := none })) ∧
    (s.cfg.selectRejectsIuyv = false →
      exec .select s = .next (s.setTarget { d with status := .ok, kernel := some .iuyv }))

/-- R115: two tags of one layout give the same result, whatever the other operands. -/
def Obligations.AliasesAgree : Prop :=
  ∀ (c : Config) (src a b w h : Word) (l : Layout), c.tagTable.unambiguous = true →
    (a, l) ∈ c.tagTable.dst → (b, l) ∈ c.tagTable.dst →
    selector c src a w h = selector c src b w h

/-- R119: issuing SELECT again changes nothing. -/
def Obligations.SelectIdempotent : Prop :=
  ∀ s t : State, exec .select s = .next t → exec .select t = .next t

/-! ## Operands and addresses -/

/-- R26 to R31, R33: SELECT has its operands exactly when SRC_TAG, DST_TAG, WIDTH and HEIGHT hold them, and
a CONVERT its ten exactly when WIDTH, HEIGHT and the registers of index 8 to 15 do, each operand from its
own register; R37: the pending conversion is the pending kernel with these. R52, R53: a sample of column `x` of source row `y` is read at BASE + y * STRIDE + x of its
plane, and byte `i` of destination row `r` stands at D_BASE + r * D_STRIDE + i. R54, R55: the write set is
the bytes of the destination rows, the read footprint the samples of the three planes. -/
def Obligations.OperandsAndAddresses : Prop :=
  (∀ (d : Instance) (o : SelectOperands), d.selectOperands? = some o ↔
    d.readReg .srcTag = some o.src.toNat ∧ d.readReg .dstTag = some o.dst.toNat ∧
    d.readReg .width = some o.width.toNat ∧ d.readReg .height = some o.height.toNat) ∧
  (∀ (d : Instance) (f : FrameDesc), d.frame? = some f ↔
    d.readReg .width = some f.width ∧ d.readReg .height = some f.height ∧
    d.readReg .yBase = some f.yBase ∧ d.readReg .yStride = some f.yStride ∧
    d.readReg .uBase = some f.uBase ∧ d.readReg .uStride = some f.uStride ∧
    d.readReg .vBase = some f.vBase ∧ d.readReg .vStride = some f.vStride ∧
    d.readReg .dBase = some f.dBase ∧ d.readReg .dStride = some f.dStride) ∧
  (∀ (d : Instance) (p : Packer) (f : FrameDesc), d.conversion? = some (p, f) ↔
    d.pending = some p ∧ d.frame? = some f) ∧
  (∀ (m : Memory) (f : FrameDesc) (x y : Nat),
    sample m f .y x y = Memory.read m (f.yBase + y * f.yStride + x) ∧
    sample m f .u x y = Memory.read m (f.uBase + y * f.uStride + x) ∧
    sample m f .v x y = Memory.read m (f.vBase + y * f.vStride + x)) ∧
  (∀ (f : FrameDesc) (i r : Nat), f.dstAddr i r = f.dBase + r * f.dStride + i) ∧
  (∀ (f : FrameDesc) (p : Packer) (a : Nat), (f.writeSet p).contains a = true ↔
    ∃ r < f.height, ∃ i < p.rowBytes f.width, a = f.dBase + r * f.dStride + i) ∧
  ∀ (f : FrameDesc) (a : Nat), f.inFootprint a = true ↔ ∃ y < f.height,
    (∃ x < f.width, a = f.yBase + y * f.yStride + x) ∨
    ∃ j < f.width / 2, a = f.uBase + y * f.uStride + j ∨ a = f.vBase + y * f.vStride + j

/-! ## CONVERT -/

/-- R143: CONVERT.IUYV, word 0x0000000E, on an idle copy gives NOT_IMPLEMENTED in its issue step, whatever the operand
registers hold; KERNEL, the operands, BUSY and memory keep their values. -/
def Obligations.IuyvNotImplemented : Prop :=
  ∀ (s : State) (d : Instance), s.instances[s.target]? = some d → d.busy = false →
    decode .cmd 0x0000000E#32 = .instr .convertIuyv ∧
    exec .convertIuyv s = .next (s.setTarget { d with status := .notImplemented }) ∧
    ({ d with status := .notImplemented } : Instance).busy = false

/-- R24, R135: the issue step of CONVERT.YUYV, .YVYU, .UYVY, .CYUV and .Y211 on an idle copy with legal
operands completes: the conversion is pending, BUSY is 1, STATUS, KERNEL and all else as before. -/
def Obligations.ConvertIssueCompletes : Prop :=
  ∀ (p : Packer) (s : State) (d : Instance) (f : FrameDesc),
    s.instances[s.target]? = some d → d.busy = false → d.frame? = some f →
    f.legal p s.cfg = true →
    exec (convertInstr p) s = .next (s.setTarget { d with pending := some p }) ∧
    ({ d with pending := some p } : Instance).busy = true

/-- R140, R141, R142: CONVERT.YUYV, .YVYU and .UYVY of legal operands complete, and unit `k` of
destination row `r` holds the four samples of source row `r` in the kernel's order. No other pending
conversion may conflict (R73); memory is canonical (`State.Inv`). -/
def Obligations.ConvertTopDown : Prop :=
  ∀ (s : State) (d : Instance) (f : FrameDesc), Memory.wf s.mem →
    s.instances[s.target]? = some d → d.busy = false → d.frame? = some f →
    (f.legal .yuyv s.cfg = true → conflictsWith s s.target (.yuyv, f) = false →
      ∃ u, Converts .yuyv s d f u ∧ ∀ r < f.height, ∀ k < f.width / 2, unitBytes u.mem f k r =
        [sample s.mem f .y (2 * k) r, sample s.mem f .u k r,
         sample s.mem f .y (2 * k + 1) r, sample s.mem f .v k r]) ∧
    (f.legal .yvyu s.cfg = true → conflictsWith s s.target (.yvyu, f) = false →
      ∃ u, Converts .yvyu s d f u ∧ ∀ r < f.height, ∀ k < f.width / 2, unitBytes u.mem f k r =
        [sample s.mem f .y (2 * k) r, sample s.mem f .v k r,
         sample s.mem f .y (2 * k + 1) r, sample s.mem f .u k r]) ∧
    (f.legal .uyvy s.cfg = true → conflictsWith s s.target (.uyvy, f) = false →
      ∃ u, Converts .uyvy s d f u ∧ ∀ r < f.height, ∀ k < f.width / 2, unitBytes u.mem f k r =
        [sample s.mem f .u k r, sample s.mem f .y (2 * k) r,
         sample s.mem f .v k r, sample s.mem f .y (2 * k + 1) r])

/-- R144: CONVERT.CYUV of legal operands completes, and unit `k` of destination row `r` holds the
samples of source row `H - 1 - r` in the order U, Y0, V, Y1. -/
def Obligations.ConvertCyuv : Prop :=
  ∀ (s : State) (d : Instance) (f : FrameDesc), Memory.wf s.mem →
    s.instances[s.target]? = some d → d.busy = false → d.frame? = some f →
    f.legal .cyuv s.cfg = true → conflictsWith s s.target (.cyuv, f) = false →
    ∃ u, Converts .cyuv s d f u ∧ ∀ r < f.height, ∀ k < f.width / 2, unitBytes u.mem f k r =
      [sample s.mem f .u k (f.height - 1 - r), sample s.mem f .y (2 * k) (f.height - 1 - r),
       sample s.mem f .v k (f.height - 1 - r), sample s.mem f .y (2 * k + 1) (f.height - 1 - r)]

/-- R145: CONVERT.Y211 of legal operands completes, and the bytes below `W` of destination row `r` hold
Y(4k), U(2k), Y(4k+2), V(2k) of source row `H - 1 - r`. The chroma column and the cut unit are the
spec's decisions D16 and D17 (log 16). -/
def Obligations.ConvertY211 : Prop :=
  ∀ (s : State) (d : Instance) (f : FrameDesc), Memory.wf s.mem →
    s.instances[s.target]? = some d → d.busy = false → d.frame? = some f →
    f.legal .y211 s.cfg = true → conflictsWith s s.target (.y211, f) = false →
    ∃ u, Converts .y211 s d f u ∧ ∀ r < f.height, ∀ k,
      (4 * k < f.width → Memory.read u.mem (f.dstAddr (4 * k) r) =
        sample s.mem f .y (4 * k) (f.height - 1 - r)) ∧
      (4 * k + 1 < f.width → Memory.read u.mem (f.dstAddr (4 * k + 1) r) =
        sample s.mem f .u (2 * k) (f.height - 1 - r)) ∧
      (4 * k + 2 < f.width → Memory.read u.mem (f.dstAddr (4 * k + 2) r) =
        sample s.mem f .y (4 * k + 2) (f.height - 1 - r)) ∧
      (4 * k + 3 < f.width → Memory.read u.mem (f.dstAddr (4 * k + 3) r) =
        sample s.mem f .v (2 * k) (f.height - 1 - r))

/-- R146: the known inverse unpacking recovers every sample of the four full-resolution kernels, and
for Y211 the even luma columns and those even chroma columns whose byte lies below `W` (a cut last
unit, D17, holds no V). -/
def Obligations.RoundTrip : Prop :=
  ∀ (p : Packer) (s : State) (d : Instance) (f : FrameDesc) (u : State), Memory.wf s.mem →
    f.legal p s.cfg = true → Converts p s d f u →
    s.instances[s.target]? = some d → d.frame? = some f →
    ∀ r < f.height,
      (∀ x < f.width, (p = .y211 → x % 2 = 0) →
        Memory.read u.mem (f.dstAddr (lumaByte p x) r) =
          sample s.mem f .y x (p.sourceRow f.height r)) ∧
      (∀ j < f.width / 2, (p = .y211 → j % 2 = 0) →
        Memory.read u.mem (f.dstAddr (chromaUByte p j) r) =
          sample s.mem f .u j (p.sourceRow f.height r)) ∧
      (∀ j < f.width / 2, (p = .y211 → j % 2 = 0 ∧ 2 * j + 3 < f.width) →
        Memory.read u.mem (f.dstAddr (chromaVByte p j) r) =
          sample s.mem f .v j (p.sourceRow f.height r))

/-- R134: the three top-to-bottom kernels take source row `r` to destination row `r`; the two
bottom-to-top kernels take the first source row to the last destination row and the last to the first;
the row map stays in the frame and is its own inverse. -/
def Obligations.ScanDirection : Prop :=
  ∀ h r : Nat, r < h →
    (∀ p ∈ [Packer.yuyv, .yvyu, .uyvy], p.sourceRow h r = r) ∧
    (∀ p ∈ [Packer.cyuv, .y211], p.sourceRow h r = h - 1 - r ∧
      p.sourceRow h (h - 1) = 0 ∧ p.sourceRow h 0 = h - 1) ∧
    ∀ p : Packer, p.sourceRow h r < h ∧ p.sourceRow h (p.sourceRow h r) = r

/-- R138: every sample a byte of a row copies lies in the frame. -/
def Obligations.BytesStayInFrame : Prop :=
  ∀ (p : Packer) (f : FrameDesc) (i r : Nat), f.width % 2 = 0 → i < p.rowBytes f.width →
    r < f.height →
    f.inFootprint (f.sourceAddr (byteSource p i).1 (byteSource p i).2
      (p.sourceRow f.height r)) = true

/-- R54, R133: the write set has `H * RB` bytes, where `RB` is `2 * W` (full resolution) or `W` (Y211),
each listed once. -/
def Obligations.WriteSetSize : Prop :=
  ∀ (p : Packer) (f : FrameDesc), f.shapeOk p = true →
    ((f.writeSet p).addrs).Nodup ∧
    (p ≠ .y211 → ((f.writeSet p).addrs).length = f.height * (f.width * 2)) ∧
    (p = .y211 → ((f.writeSet p).addrs).length = f.height * f.width)

/-- R144: each destination row of CYUV is the UYVY row of the mirrored source row. -/
def Obligations.CyuvMirrorsUyvy : Prop :=
  ∀ (m : Memory) (f : FrameDesc) (i r : Nat), Memory.wf m → f.shapeOk .cyuv = true →
    r < f.height → i < 2 * f.width →
    Memory.read (packFrame m .cyuv f) (f.dstAddr i r) =
      Memory.read (packFrame m .uyvy f) (f.dstAddr i (f.height - 1 - r))

/-- R148: the bytes a CONVERT writes depend on its kernel, its operands and the bytes of its read
footprint alone: two machines that agree on these agree on every byte of the write set. -/
def Obligations.ConversionIsPure : Prop :=
  ∀ (p : Packer) (f : FrameDesc) (s t s' t' : State) (d e : Instance) (k j : Nat),
    Memory.wf s.mem → Memory.wf t.mem → f.shapeOk p = true →
    s.instances[k]? = some d → d.conversion? = some (p, f) →
    t.instances[j]? = some e → e.conversion? = some (p, f) →
    conflictsWith s k (p, f) = false → conflictsWith t j (p, f) = false →
    (∀ a, f.inFootprint a = true → Memory.read s.mem a = Memory.read t.mem a) →
    perform k s = .next s' → perform j t = .next t' →
    ∀ a, (f.writeSet p).contains a = true → Memory.read s'.mem a = Memory.read t'.mem a

/-- R137: a conversion of a frame with no column or no row writes nothing, and STATUS becomes OK. -/
def Obligations.EmptyFrameWritesNothing : Prop :=
  ∀ (p : Packer) (f : FrameDesc) (s : State) (d : Instance) (k : Nat),
    s.instances[k]? = some d → d.conversion? = some (p, f) →
    conflictsWith s k (p, f) = false → (f.width = 0 ∨ f.height = 0) →
    perform k s = .next { s with
      instances := s.instances.set k { d with status := .ok, pending := none } }

/-- R56, R57, R58, R63: the check of a CONVERT's operands is the four preconditions, said of
addresses. -/
def Obligations.PreconditionsExact : Prop :=
  ∀ (p : Packer) (f : FrameDesc) (c : Config), f.legal p c = true ↔
    (∀ g ∈ [f.plane .y, f.plane .u, f.plane .v, f.writeSet p], 0 < f.height → 0 < g.extent →
      g.base + (f.height - 1) * g.stride + g.extent ≤ 2 ^ c.addrBits) ∧
    (f.width % 2 = 0 ∧ f.height % 2 = 0 ∧ f.width ≤ f.yStride ∧ f.width / 2 ≤ f.uStride ∧
      f.width / 2 ≤ f.vStride ∧ p.rowBytes f.width ≤ f.dStride) ∧
    (∀ a, ¬((f.writeSet p).contains a = true ∧ f.inFootprint a = true)) ∧
    (∀ a, (f.writeSet p).contains a = true ∨ f.inFootprint a = true → c.ordinary a = true)

/-- R54, R55, R58: an address lies in a region exactly when it is one of its bytes, and two regions pass the
check exactly when they share no address. R63: an address is ordinary memory exactly when no window of the
parameter ORDINARY holds it. -/
def Obligations.ApartExact : Prop :=
  (∀ (g : Region) (a : Nat), g.contains a = true ↔
    ∃ y < g.rows, ∃ i < g.extent, a = g.base + y * g.stride + i) ∧
  (∀ g h : Region, g.apart h = true ↔ ∀ a, ¬(g.contains a = true ∧ h.contains a = true)) ∧
  ∀ (c : Config) (a : Nat), c.ordinary a = true ↔ ∀ g ∈ c.devices, g.contains a = false

/-! ## Refused actions -/

/-- R36: while BUSY, each of the seventeen rows, an illegal command word, a host write of any value to CMD
and a write of any operand register is refused with WriteWhileBusy; reads of every register that holds a
value go on. That a value of more than 32 bits written to CMD is a command word too is log 31. That a
refused action changes nothing but the mark is the model's choice (log 1), and so is the reason that is
kept where the mark was set before (log 21). -/
def Obligations.BusyRefusesWrites : Prop :=
  ∀ (s : State) (d : Instance), s.instances[s.target]? = some d → d.busy = true →
    (∀ i, exec i s = .next (s.mark .writeWhileBusy)) ∧
    illegalCommand s = .next (s.mark .writeWhileBusy) ∧
    (∀ v, writeRegister s.target .cmd v s = .next (s.mark .writeWhileBusy)) ∧
    (∀ r v, isOperandReg r = true →
      writeRegister s.target r v s = .next (s.mark .writeWhileBusy)) ∧
    (∀ r t x v, d.readReg r = some v →
      readRegister s.target r t x s = .next (s.putTemp t x v))

/-- R33: on an idle copy, SELECT with one of its four operands unwritten, and a CONVERT of an
implemented kernel with one of its ten operands unwritten, are refused with UnwrittenOperand; so is a
host read of an unwritten register. That a refused action changes nothing but the mark is the model's
choice (log 1; log 21 for a mark set before). -/
def Obligations.UnwrittenOperandRefused : Prop :=
  ∀ (s : State) (d : Instance), s.instances[s.target]? = some d →
    (d.busy = false → (∃ r ∈ [RegName.srcTag, .dstTag, .width, .height], d.readReg r = none) →
      exec .select s = .next (s.mark .unwrittenOperand)) ∧
    (∀ p, d.busy = false → (∃ r ∈ convertRegs, d.readReg r = none) →
      exec (convertInstr p) s = .next (s.mark .unwrittenOperand)) ∧
    (∀ r t x, d.readReg r = none →
      readRegister s.target r t x s = .next (s.mark .unwrittenOperand))

/-- R135: a CONVERT of an implemented kernel whose operands hold values but break a precondition is
refused with ConvertPrecondition. That a refused action changes nothing but the mark is the model's
choice (log 1; log 21 for a mark set before). -/
def Obligations.PreconditionRefused : Prop :=
  ∀ (p : Packer) (s : State) (d : Instance) (f : FrameDesc),
    s.instances[s.target]? = some d → d.busy = false → d.frame? = some f →
    f.legal p s.cfg = false →
    exec (convertInstr p) s = .next (s.mark .convertPrecondition)

/-- R73: a perform step that would write a byte of another pending CONVERT's write set or read
footprint is refused with BufferWriteWhileBusy, and so is one whose own read footprint meets another
pending CONVERT's write set; for the latter the first sentence of R73 forbids the two to be pending at
once, and that its perform step is refused is the model's reading (log 14). The check finds a conflict
exactly in these cases. That a refused action changes nothing but the mark is the model's choice (log 1;
log 21 for a mark set before). -/
def Obligations.ConflictingPerformRefused : Prop :=
  (∀ (s : State) (k : Nat) (p : Packer) (f : FrameDesc), conflictsWith s k (p, f) = true ↔
    ∃ j e q g a, k ≠ j ∧ s.instances[j]? = some e ∧ e.conversion? = some (q, g) ∧
      (((f.writeSet p).contains a = true ∧
          ((g.writeSet q).contains a = true ∨ g.inFootprint a = true)) ∨
        (f.inFootprint a = true ∧ (g.writeSet q).contains a = true))) ∧
  ∀ (s : State) (k j : Nat) (d e : Instance) (p q : Packer) (f g : FrameDesc) (a : Nat),
    k ≠ j → s.instances[k]? = some d → s.instances[j]? = some e →
    d.conversion? = some (p, f) → e.conversion? = some (q, g) →
    (((f.writeSet p).contains a = true ∧
        ((g.writeSet q).contains a = true ∨ g.inFootprint a = true)) ∨
      (f.inFootprint a = true ∧ (g.writeSet q).contains a = true)) →
    perform k s = .next (s.mark .bufferWriteWhileBusy)

/-- R68: a host store to a byte of a pending CONVERT's write set or read footprint is refused with
BufferWriteWhileBusy. That a refused action changes nothing but the mark is the model's choice (log 1;
log 21 for a mark set before). -/
def Obligations.StoreToBufferRefused : Prop :=
  ∀ (s : State) (j : Nat) (e : Instance) (q : Packer) (g : FrameDesc) (a v : Nat),
    s.instances[j]? = some e → e.conversion? = some (q, g) →
    ((g.writeSet q).contains a = true ∨ g.inFootprint a = true) →
    a < 2 ^ s.cfg.addrBits → s.cfg.ordinary a = true →
    hostStore a v s = .next (s.mark .bufferWriteWhileBusy)

/-- R41, R180: a refused action sets the mark, and once it is set no step, reset among them, clears it. That
it keeps its first reason is the model's choice (log 21), and that the mark is all it changes is too (log
1). -/
def Obligations.RefusalMarkIsKept : Prop :=
  (∀ (s : State) (r : RefusalReason),
    (s.refusal = none → s.mark r = { s with refusal := some r }) ∧
    (∀ q, s.refusal = some q → s.mark r = s)) ∧
  ∀ (s t : State) (r : RefusalReason), s.refusal = some r → step s = .next t → t.refusal = some r

/-- R33, R36, R68, R73, R135, R180: the mark is set by the refused actions alone, each with its reason: a
write to CMD or to an operand register of a busy copy; a read of an unwritten register, or a command that
needs one; a CONVERT whose operands break a precondition; a store into a pending CONVERT's buffers, or a
perform step that conflicts with another (both directions, log 14). A value written to CMD counts by its
low 32 bits (log 31). -/
def Obligations.MarkSetOnlyByRefusedAction : Prop :=
  ∀ (m : Move) (s t : State) (r : RefusalReason), s.Inv → s.clean → runMove m s = .next t →
    t.refusal = some r →
    (r = .writeWhileBusy ∧ ∃ th k q v d, m = .host th ∧ fetchAction s th = some (.write k q v) ∧
      s.instances[k]? = some d ∧ d.busy = true ∧ (q = .cmd ∨ isOperandReg q = true)) ∨
    (r = .unwrittenOperand ∧ ∃ th k d, m = .host th ∧ s.instances[k]? = some d ∧
      ((∃ q x, fetchAction s th = some (.read k q x) ∧ d.readReg q = none) ∨
       (∃ v, fetchAction s th = some (.write k .cmd v) ∧
         decode .cmd (BitVec.ofNat 32 v) = .instr .select ∧
         ∃ q ∈ [RegName.srcTag, .dstTag, .width, .height], d.readReg q = none) ∨
       (∃ v p, fetchAction s th = some (.write k .cmd v) ∧
         decode .cmd (BitVec.ofNat 32 v) = .instr (convertInstr p) ∧
         ∃ q ∈ convertRegs, d.readReg q = none))) ∨
    (r = .convertPrecondition ∧ ∃ th k v d p f, m = .host th ∧
      fetchAction s th = some (.write k .cmd v) ∧
      decode .cmd (BitVec.ofNat 32 v) = .instr (convertInstr p) ∧ s.instances[k]? = some d ∧
      d.frame? = some f ∧ f.legal p s.cfg = false) ∨
    (r = .bufferWriteWhileBusy ∧
      ((∃ th a v, m = .host th ∧ fetchAction s th = some (.store a v) ∧
         (inPendingWriteSet s a = true ∨ inPendingFootprint s a = true)) ∨
       (∃ k d p f, m = .packer k ∧ s.instances[k]? = some d ∧ d.conversion? = some (p, f) ∧
         conflictsWith s k (p, f) = true)))

/-! ## Illegal commands, registers and tags -/

/-- R91: a command word that is none of the seven, delivered to an idle copy, makes STATUS
ILLEGAL_COMMAND and changes nothing else. That the word of a value of more than 32 bits is its low 32
bits is the model's choice (log 31). -/
def Obligations.IllegalCommandReported : Prop :=
  ∀ (s : State) (k v : Nat) (d : Instance), s.instances[k]? = some d → d.busy = false →
    BitVec.ofNat 32 v ∉ [0x00000001#32, 0x00000002#32, 0x00000006#32, 0x0000000A#32,
      0x0000000E#32, 0x00000012#32, 0x00000016#32] →
    writeRegister k .cmd v s =
      .next { s with
        target := k, instances := s.instances.set k { d with status := .illegalCommand } }

/-- R21, R34: each of the twelve registers of index 4 to 15, written on an idle copy, reads back the value's
low bits, 32 of them for the tags and the dimensions and ADDR_BITS for the eight descriptors, and the host's
read gives them; every other register and all memory keep their values. -/
def Obligations.OperandWriteReadsBack : Prop :=
  ∀ (s : State) (k : Nat) (r : RegName) (n v : Nat) (d : Instance),
    s.instances[k]? = some d → d.busy = false →
    (r, n) ∈ [(RegName.srcTag, 32), (.dstTag, 32), (.width, 32), (.height, 32),
      (.yBase, s.cfg.addrBits), (.yStride, s.cfg.addrBits), (.uBase, s.cfg.addrBits),
      (.uStride, s.cfg.addrBits), (.vBase, s.cfg.addrBits), (.vStride, s.cfg.addrBits),
      (.dBase, s.cfg.addrBits), (.dStride, s.cfg.addrBits)] →
    ∃ e, writeRegister k r v s =
        .next { s with target := k, instances := s.instances.set k e } ∧
      e.readReg r = some (v % 2 ^ n) ∧
      (∀ t x, readRegister k r t x { s with target := k, instances := s.instances.set k e } =
        .next (State.putTemp { s with target := k, instances := s.instances.set k e } t x
          (v % 2 ^ n))) ∧
      ∀ q, q ≠ r → e.readReg q = d.readReg q

/-- R35: a host write to STATUS, BUSY or KERNEL is ignored, while BUSY too. -/
def Obligations.ReadOnlyWritesIgnored : Prop :=
  ∀ (s : State) (k : Nat) (r : RegName) (v : Nat) (d : Instance),
    s.instances[k]? = some d → r ∈ [RegName.status, .busy, .kernel] →
    writeRegister k r v s = .next (s.aim k)

/-- R22, R23, R24, R25, R34, R37, R85, R92, R94: a copy is BUSY exactly when a CONVERT is pending. A host read gives 0 for CMD, for STATUS the number of its code, the
pending bit for BUSY, for KERNEL the kernel's id or 7 and, for every register that holds a value, that
value; it changes only the temporary it is read into. After that the temporary holds the value, and every
other temporary that held one, the thread's program and line, every other thread and all else are as
before. -/
def Obligations.ResultRegisterReads : Prop :=
  (∀ d : Instance, d.busy = true ↔ d.pending ≠ none) ∧
  (∀ (s : State) (t x v : Nat) (th : HostThread), s.threads[t]? = some th →
    ∃ u, s.putTemp t x v = { s with threads := s.threads.set t u } ∧ u.temps[x]? = some v ∧
      (∀ y w, y ≠ x → th.temps[y]? = some w → u.temps[y]? = some w) ∧
      u.prog = th.prog ∧ u.line = th.line) ∧
  ∀ (s : State) (k t x : Nat) (d : Instance), s.instances[k]? = some d →
    readRegister k .cmd t x s = .next ((s.aim k).putTemp t x 0) ∧
    readRegister k .status t x s = .next ((s.aim k).putTemp t x
      (match d.status with
        | .none => 0 | .ok => 1 | .unsupportedGeometry => 2 | .unsupportedFormatPair => 3
        | .notImplemented => 4 | .illegalCommand => 5)) ∧
    readRegister k .busy t x s =
      .next ((s.aim k).putTemp t x (if d.pending = none then 0 else 1)) ∧
    readRegister k .kernel t x s = .next ((s.aim k).putTemp t x
      (match d.kernel with
        | some .yuyv => 0 | some .yvyu => 1 | some .uyvy => 2 | some .iuyv => 3 | some .cyuv => 4
        | some .y211 => 5 | none => 7)) ∧
    ∀ r v, d.readReg r = some v → readRegister k r t x s = .next ((s.aim k).putTemp t x v)

/-- R26, R27: on an idle copy each of the ten tag rows completes: SRC.I422 puts its word in SRC_TAG,
and DST.YUY2, .YUNV, .YVYU, .UYVY, .UYNV, .Y422, .IUYV, .cyuv and .Y211 put theirs in DST_TAG; nothing
else changes. That a tag row is the host's write of its word is the model's reading (log 7). -/
def Obligations.TagRowsComplete : Prop :=
  ∀ (s : State) (d : Instance), s.instances[s.target]? = some d → d.busy = false →
    exec .srcI422 s = .next (s.setTarget { d with srcTag := some 0x32323449#32 }) ∧
    ∀ iw ∈ [(Instr.dstYuy2, 0x32595559#32), (.dstYunv, 0x564E5559#32), (.dstYvyu, 0x55595659#32),
        (.dstUyvy, 0x59565955#32), (.dstUynv, 0x564E5955#32), (.dstY422, 0x32323459#32),
        (.dstIuyv, 0x56595549#32), (.dstCyuv, 0x76757963#32), (.dstY211, 0x31313259#32)],
      exec iw.1 s = .next (s.setTarget { d with dstTag := some iw.2 })

/-! ## Frames -/

/-- R25, R62, R91, R118, R135, R143: what a row leaves alone when it answers a next state. Every byte
of memory, every other copy of the block, the parameters and the host keep their values; KERNEL changes
only by SELECT, STATUS only by SELECT and CONVERT.IUYV, `pending` only by the five implemented
CONVERTs, SRC_TAG only by SRC.I422, DST_TAG only by a destination row, the other operands by none. -/
def Obligations.RowFrame : Prop :=
  ∀ (i : Instr) (s t : State) (d : Instance), s.instances[s.target]? = some d →
    exec i s = .next t →
    (∀ a, Memory.read t.mem a = Memory.read s.mem a) ∧
    t.cfg = s.cfg ∧ t.target = s.target ∧ t.threads = s.threads ∧ t.schedule = s.schedule ∧
    t.drawn = s.drawn ∧ (∀ j, j ≠ s.target → t.instances[j]? = s.instances[j]?) ∧
    ∃ e, t.instances[s.target]? = some e ∧
      (i ≠ .select → e.kernel = d.kernel) ∧
      (i ≠ .select → i ≠ .convertIuyv → e.status = d.status) ∧
      ((∀ p, i ≠ convertInstr p) → e.pending = d.pending) ∧
      (i ≠ .srcI422 → e.srcTag = d.srcTag) ∧
      ((encode i).1 ≠ .dstTag → e.dstTag = d.dstTag) ∧
      ∀ r ∈ convertRegs, e.readReg r = d.readReg r

/-- R62: a move changes a byte of memory only where a host store names it, where it lies in the write
set of the conversion performed, or where reset abandons a conversion. -/
def Obligations.MemoryChangesOnlyByRule : Prop :=
  ∀ (m : Move) (s t : State) (a : Nat), runMove m s = .next t →
    Memory.read t.mem a ≠ Memory.read s.mem a →
    (∃ th v, m = .host th ∧ fetchAction s th = some (.store a v)) ∨
    (∃ k d p f, m = .packer k ∧ s.instances[k]? = some d ∧ d.conversion? = some (p, f) ∧
      (f.writeSet p).contains a = true) ∨
    (m = .reset ∧ inPendingWriteSet s a = true)

/-- R23, R24, R25, R34, R37, R136: a move changes STATUS of a copy only by a write of its CMD, by reset or by
the perform step of its pending CONVERT, which makes it OK; KERNEL only by a SELECT word written to its CMD or reset; BUSY, the view of `pending`,
only by the CONVERT word of an implemented kernel written to its CMD, its own perform step or reset; an
operand register only by a host write of that register or reset. A value written to CMD counts by its low
32 bits (log 31). -/
def Obligations.RegistersChangeOnlyByRule : Prop :=
  ∀ (m : Move) (s t : State) (k : Nat) (d e : Instance), runMove m s = .next t →
    s.instances[k]? = some d → t.instances[k]? = some e → m ≠ .reset →
    (e.status ≠ d.status →
      (m = .packer k ∧ (∃ p, d.pending = some p) ∧ e.status = .ok) ∨
      ∃ th v, m = .host th ∧ fetchAction s th = some (.write k .cmd v)) ∧
    (e.kernel ≠ d.kernel → ∃ th v, m = .host th ∧ fetchAction s th = some (.write k .cmd v) ∧
      decode .cmd (BitVec.ofNat 32 v) = .instr .select) ∧
    (e.pending ≠ d.pending → (m = .packer k ∧ e.pending = none) ∨
      ∃ th v p, m = .host th ∧ fetchAction s th = some (.write k .cmd v) ∧
        decode .cmd (BitVec.ofNat 32 v) = .instr (convertInstr p) ∧ e.pending = some p) ∧
    (∀ r, isOperandReg r = true → e.readReg r ≠ d.readReg r →
      ∃ th v, m = .host th ∧ fetchAction s th = some (.write k r v))

/-- R40: the copies of the block share no state: a host move changes at most the copy it addresses, and
a packer's move at most its own copy. -/
def Obligations.CopiesShareNothing : Prop :=
  ∀ (s t : State) (j : Nat),
    (∀ th, runMove (.host th) s = .next t → j ≠ t.target →
      t.instances[j]? = s.instances[j]?) ∧
    (∀ k, runMove (.packer k) s = .next t → j ≠ k → t.instances[j]? = s.instances[j]?)

/-- R8, R186: no step changes the parameters or the number of copies of the block. -/
def Obligations.ParametersAreFixed : Prop :=
  ∀ s t : State, step s = .next t → t.cfg = s.cfg ∧ t.instances.length = s.instances.length

/-! ## The host's memory accesses -/

/-- R63, R68, R94: a host store to ordinary memory outside every pending CONVERT's buffers writes its byte
and no other, and a load then gives it back. That a value above 255 stores its low 8 bits is the model's
choice (log 30). -/
def Obligations.HostStoreThenLoad : Prop :=
  ∀ (s : State) (a v t x : Nat), Memory.wf s.mem → a < 2 ^ s.cfg.addrBits →
    s.cfg.ordinary a = true → inPendingWriteSet s a = false → inPendingFootprint s a = false →
    ∃ u, hostStore a v s = .next u ∧ u = { s with mem := u.mem } ∧
      (∀ b, b ≠ a → Memory.read u.mem b = Memory.read s.mem b) ∧
      hostLoad a t x u = .next (u.putTemp t x (v % 256))

/-- R50, R67, R68, R94: a host load of ordinary memory outside every pending CONVERT's write set gives the
byte that memory holds, and changes only the temporary. So does a load of a byte of a pending CONVERT's
read footprint: R67 makes a race of the write set alone and R68 refuses writes alone. The two address
checks are exact. -/
def Obligations.PlainLoadReadsMemory : Prop :=
  (∀ (s : State) (a : Nat), inPendingWriteSet s a = true ↔
    ∃ e ∈ s.instances, ∃ q g, e.conversion? = some (q, g) ∧ (g.writeSet q).contains a = true) ∧
  (∀ (s : State) (a : Nat), inPendingFootprint s a = true ↔
    ∃ e ∈ s.instances, ∃ q g, e.conversion? = some (q, g) ∧ g.inFootprint a = true) ∧
  (∀ (s : State) (a t x : Nat), a < 2 ^ s.cfg.addrBits → s.cfg.ordinary a = true →
    inPendingWriteSet s a = false →
    hostLoad a t x s = .next (s.putTemp t x (Memory.read s.mem a).toNat)) ∧
  ∀ (s : State) (j : Nat) (e : Instance) (q : Packer) (g : FrameDesc) (a t x : Nat),
    s.instances[j]? = some e → e.conversion? = some (q, g) → g.legal q s.cfg = true →
    conflictsWith s j (q, g) = false → g.inFootprint a = true →
    hostLoad a t x s = .next (s.putTemp t x (Memory.read s.mem a).toNat)

/-- R67: a host load of a byte of a pending CONVERT's write set gives a draw, whatever memory holds,
and takes one draw. The statement holds for every value of the draw. -/
def Obligations.LoadFromPendingIsDraw : Prop :=
  ∀ (s : State) (j : Nat) (e : Instance) (q : Packer) (g : FrameDesc) (a t x : Nat),
    s.instances[j]? = some e → e.conversion? = some (q, g) →
    (g.writeSet q).contains a = true → a < 2 ^ s.cfg.addrBits → s.cfg.ordinary a = true →
    hostLoad a t x s =
      .next ({ s with drawn := s.drawn + 1 }.putTemp t x (Config.draw s.drawn).toNat)

/-! ## Reset -/

/-- R41, R200: the reset state of the machine. STATUS reads 0, BUSY 0 and KERNEL 7, no operand register
holds a value, nothing is pending and no refused action is recorded. R8, R84, R114, R117: the parameters
that the spec gives a value. The tag words and the layouts they denote are the default table of R84, which
is presumed (log 4); SELECT_REJECTS_IUYV is true, the value R8 gives by decision D10 (log 18). -/
def Obligations.ResetValues : Prop :=
  (∀ d ∈ State.reset.instances,
    statusWord d = 0#32 ∧ busyWord d = 0#32 ∧ kernelWord d = 7#32 ∧ d.pending = none ∧
    ∀ r ∈ [RegName.srcTag, .dstTag, .width, .height, .yBase, .yStride, .uBase, .uStride, .vBase,
      .vStride, .dBase, .dStride], d.readReg r = none) ∧
  State.reset.refusal = none ∧
  State.reset.cfg.tagTable.src422 = 0x32323449#32 ∧
  (∀ w l, (w, l) ∈ State.reset.cfg.tagTable.dst ↔
    (w, l) ∈ [(0x32595559#32, Layout.yuyv), (0x564E5559#32, .yuyv), (0x55595659#32, .yvyu),
      (0x59565955#32, .uyvy), (0x564E5955#32, .uyvy), (0x32323459#32, .uyvy), (0x56595549#32, .iuyv),
      (0x76757963#32, .cyuv), (0x31313259#32, .y211)]) ∧
  State.reset.cfg.selectRejectsIuyv = true

/-- R200, R201: a reset move puts every copy of the block in its reset state; every byte of a pending
CONVERT's write set holds a draw of this reset, every other byte and the refusal mark keep their values.
That the host threads, the schedule and the parameters do too is the model's reading (log 23), and so is the
counter that numbers the draws (log 12). -/
def Obligations.ResetAbandonsConversions : Prop :=
  ∀ (s : State) (ms : List Move), s.schedule = .reset :: ms → Memory.wf s.mem →
    ∃ t, step s = .next t ∧ t.cfg = s.cfg ∧ t.refusal = s.refusal ∧ t.threads = s.threads ∧
      t.schedule = ms ∧ t.instances = List.replicate s.instances.length Instance.reset ∧
      (∀ a, inPendingWriteSet s a = false → Memory.read t.mem a = Memory.read s.mem a) ∧
      (∀ a, inPendingWriteSet s a = true →
        ∃ n, s.drawn ≤ n ∧ n < t.drawn ∧ Memory.read t.mem a = Config.draw n)

/-- R202: a host that passes on the KERNEL value of a copy just reset issues an illegal command, not a
conversion. -/
def Obligations.NoneKernelIsIllegal : Prop :=
  ∀ (s : State) (th : Nat) (t : HostThread) (k x : Nat) (d : Instance),
    s.threads[th]? = some t → t.prog[t.line]? = some (.convertKid k x) →
    s.instances[k]? = some d → d.busy = false → t.temps[x]? = some 7 →
    runThread th s = .next { s.advance th with
      target := k, instances := s.instances.set k { d with status := .illegalCommand } }

/-! ## The machine as a whole -/

/-- R86, R94: where the next move is a host thread's and its line delivers the word of a row to a
register of copy `k`, the step is that row's meaning, on the state with the move taken off the
schedule, the thread at its next line and copy `k` addressed; in a run with the mark set as well (R180,
log 1). That the word of a value of more than 32 bits is its low 32 bits is, for CMD, the model's choice
(log 31). -/
def Obligations.StepRunsDecodedRow : Prop :=
  ∀ (s : State) (ms : List Move) (th : Nat) (t : HostThread) (l : HostLine) (k v : Nat)
    (r : RegName) (p : Port) (i : Instr),
    s.schedule = .host th :: ms → s.threads[th]? = some t →
    t.prog[t.line]? = some l → lineAction s.cfg t l = .write k r v → portOf r = some p →
    decode p (BitVec.ofNat 32 v) = .instr i →
    step s = exec i { s with
      schedule := ms
      threads := s.threads.modify th fun t => { t with line := t.line + 1 }
      target := k }

/-- R19, R34, R94: where the next move is a host thread's, the step does the action of the line that the
thread has reached, for every action: a register write or read, a byte store or load with the thread at its
next line; `wait`, a jump or `stop` at its line. A bus access that REG_MAP does not place faults (log 13);
a thread at the end of its program does nothing (log 25). R19, R136: where the next move is a packer's, the
step is the perform step of its copy, which does nothing where no CONVERT is pending (log 25). With nothing
scheduled the first busy copy's packer moves and, where none is busy, the first thread that has a line to
run, by the model's choice (log 8), which also lets the schedule hold an idle move. -/
def Obligations.StepDoesTheMove : Prop :=
  (∀ (s : State) (ms : List Move) (k : Nat), s.schedule = .packer k :: ms →
    step s = perform k { s with schedule := ms }) ∧
  (∀ (s : State) (k : Nat) (d : Instance), s.instances[k]? = some d → d.pending = none →
    perform k s = .next s) ∧
  (∀ (s : State) (k : Nat) (d : Instance), s.schedule = [] → s.instances[k]? = some d →
    d.busy = true → (∀ j < k, ∀ e, s.instances[j]? = some e → e.busy = false) →
    step s = perform k s) ∧
  (∀ (s : State) (th : Nat) (t : HostThread), s.schedule = [] → (∀ d ∈ s.instances, d.busy = false) →
    s.threads[th]? = some t → (∃ l, t.prog[t.line]? = some l ∧ l ≠ .stop) →
    (∀ j < th, ∀ u, s.threads[j]? = some u →
      u.prog[u.line]? = none ∨ u.prog[u.line]? = some .stop) → step s = runThread th s) ∧
  (∀ (s : State) (ms : List Move), s.schedule = .idle :: ms → step s = .next { s with schedule := ms }) ∧
  ∀ (s : State) (ms : List Move) (th : Nat) (t : HostThread), s.schedule = .host th :: ms →
    s.threads[th]? = some t →
    let stay : State := { s with schedule := ms }
    let goTo (n : Nat) : State :=
      { stay with threads := s.threads.modify th fun t => { t with line := n } }
    (t.prog[t.line]? = none → step s = .next stay) ∧
    ∀ l, t.prog[t.line]? = some l →
      (∀ k r v, lineAction s.cfg t l = .write k r v →
        step s = writeRegister k r v (goTo (t.line + 1))) ∧
      (∀ k r x, lineAction s.cfg t l = .read k r x →
        step s = readRegister k r th x (goTo (t.line + 1))) ∧
      (∀ a v, lineAction s.cfg t l = .store a v → step s = hostStore a v (goTo (t.line + 1))) ∧
      (∀ a x, lineAction s.cfg t l = .load a x → step s = hostLoad a th x (goTo (t.line + 1))) ∧
      (∀ k d, lineAction s.cfg t l = .wait k → s.instances[k]? = some d →
        step s = .next ((if d.busy then stay else goTo (t.line + 1)).aim k)) ∧
      (∀ n, lineAction s.cfg t l = .jump n → step s = .next (goTo n)) ∧
      (lineAction s.cfg t l = .halt → step s = .next stay) ∧
      (lineAction s.cfg t l = .unmapped → step s = .fault .unmappedBusAddress)

/-- The invariant of the machine holds at reset. -/
def Obligations.ResetInv : Prop := State.reset.Inv

/-- R8, R21, R37, R50, R135: every step keeps the invariant: parameters as R8 asks, canonical memory inside its address space, the
addressed copy exists, registers in range, and every pending CONVERT has legal operands. -/
def Obligations.StepKeepsInv : Prop := ∀ s t : State, s.Inv → step s = .next t → t.Inv

/-- R136, R214: from every clean state of the invariant with nothing scheduled and no conflict among the
pending CONVERTs (R73), all of them have performed after at most as many steps as there are of them, and
no action was refused. That the packers move first when nothing is scheduled is the model's (log 8), and
so is that each performs within a bound (log 9). -/
def Obligations.PendingConversionsComplete : Prop :=
  ∀ s : State, s.Inv → s.clean → s.schedule = [] →
    (∀ k d a, s.instances[k]? = some d → d.conversion? = some a → conflictsWith s k a = false) →
    ∃ n ≤ s.pendingCount, ∃ t : State, Host.Core.run Sys2Proof.core n s = .next t ∧
      (∀ d ∈ t.instances, d.pending = none) ∧ t.clean

/-- R216: a run has ended when every host thread has stopped, at `stop` or at the end of its program, and no
CONVERT is pending. That an unscheduled step then changes nothing is the model's choice (log 8). -/
def Obligations.FinalStateStays : Prop :=
  (∀ s : State, s.final = true ↔
    (∀ t ∈ s.threads, t.prog[t.line]? = none ∨ t.prog[t.line]? = some .stop) ∧
    ∀ d ∈ s.instances, d.pending = none) ∧
  ∀ s : State, s.schedule = [] → s.final = true → step s = .next s

/-- R136, R175, R178: the block never stops the machine. Every row answers a next state on a copy that
exists, so do the packers and reset; no step is refused, not even after a refused action (R180; log 1),
and one faults only in a host move. The faults are the model's (log 13). -/
def Obligations.BlockNeverStops : Prop :=
  (∀ (i : Instr) (s : State) (d : Instance), s.instances[s.target]? = some d →
    ∃ t, exec i s = .next t) ∧
  (∀ (k : Nat) (s : State), ∃ t, runMove (.packer k) s = .next t) ∧
  (∀ s : State, ∃ t, runMove .reset s = .next t) ∧
  (∀ (s : State) (q : Refusal), step s ≠ .refused q) ∧
  (∀ (s : State) (q : Fault), step s = .fault q → ∃ th, (nextMove s).1 = .host th)

/-- R94: the host's own control flow: `if`, `goto` and `stop` change no thread but their own and
nothing of the block; `wait` stays at its line exactly while BUSY. That a label is a line number and a
temporary that the thread has not set is 0 is the model's choice (log 15). -/
def Obligations.HostControlFlow : Prop :=
  ∀ (s : State) (th : Nat) (t : HostThread), s.threads[th]? = some t →
    (∀ x v n, t.prog[t.line]? = some (.ifNe x v n) → runThread th s = .next (s.jump th
      (if t.temps.getD x 0 = v.value t.temps then t.line + 1 else n))) ∧
    (∀ n, t.prog[t.line]? = some (.goto n) → runThread th s = .next (s.jump th n)) ∧
    (t.prog[t.line]? = some .stop → runThread th s = .next s) ∧
    (∀ k d, t.prog[t.line]? = some (.wait k) → s.instances[k]? = some d →
      runThread th s = .next (if d.busy then s.aim k else (s.aim k).advance th))

/-- R94: what each line that reaches the block or memory does. The command lines write their word to CMD:
`select` the word 1, `convert.yuyv` to `convert.y211` the word of the kernel, `convert kid=t` the word
`2 + 4 * t`, `cmd` its value; `wr` and `rd` access their register; `mem.b` stores or loads a byte. A value
is a number or a temporary that holds one. R95: `negotiate` and `frame` are the lines of their expansion. -/
def Obligations.HostLinesAct : Prop :=
  ∀ (c : Config) (th : HostThread) (k : Nat),
    let holds (o : Operand) (v : Nat) : Prop := o = .imm v ∨ ∃ x, o = .tmp x ∧ th.temps[x]? = some v
    lineAction c th (.select k) = .write k .cmd 0x00000001 ∧
    (∀ lw ∈ [(Layout.yuyv, 0x02), (.yvyu, 0x06), (.uyvy, 0x0A), (.iuyv, 0x0E), (.cyuv, 0x12),
        (.y211, 0x16)], lineAction c th (.convert k lw.1) = .write k .cmd lw.2) ∧
    (∀ x v, th.temps[x]? = some v → lineAction c th (.convertKid k x) = .write k .cmd (2 + 4 * v)) ∧
    (∀ o v, holds o v →
      lineAction c th (.cmd k o) = .write k .cmd v ∧
      (∀ r, lineAction c th (.wr k r o) = .write k r v) ∧
      (∀ x, lineAction c th (.memLoad o x) = .load v x) ∧
      ∀ p a, holds p a → lineAction c th (.memStore p o) = .store a v) ∧
    (∀ r x, lineAction c th (.rd k r x) = .read k r x) ∧
    (∀ src dst w h ts tk, negotiateLines k src dst w h ts tk =
      [.wr k .srcTag src, .wr k .dstTag dst, .wr k .width w, .wr k .height h, .select k,
       .rd k .status ts, .rd k .kernel tk]) ∧
    ∀ yb ys ub us vb vs db ds tk ts, frameLines k yb ys ub us vb vs db ds tk ts =
      [.wr k .yBase yb, .wr k .yStride ys, .wr k .uBase ub, .wr k .uStride us, .wr k .vBase vb,
       .wr k .vStride vs, .wr k .dBase db, .wr k .dStride ds, .convertKid k tk, .wait k,
       .rd k .status ts]

/-- R21: a bus write or read at an address that REG_MAP gives to a register is the write or read of
that register by name, the address being a number or a temporary that holds one. -/
def Obligations.BusAccessFollowsRegMap : Prop :=
  ∀ (c : Config) (t : HostThread) (o : Operand) (a : Nat) (v : Operand) (x k : Nat) (r : RegName),
    (c.regMap.map (·.1)).Nodup → (a, k, r) ∈ c.regMap →
    (o = .imm a ∨ ∃ y, o = .tmp y ∧ t.temps[y]? = some a) →
    lineAction c t (.busWr o v) = lineAction c t (.wr k r v) ∧
    lineAction c t (.busRd o x) = lineAction c t (.rd k r x)

/-- R50: memories that read alike at every address are equal data, in canonical form. -/
def Obligations.MemoryIsCanonical : Prop :=
  ∀ m n : Memory, Memory.wf m → Memory.wf n → (∀ a, Memory.read m a = Memory.read n a) → m = n
end

