-- ==== Sys2Proof/Laws/State.lean ====
section
/-! SUPPORT. One lemma per field per update of State and of a copy of the block. -/

namespace Sys2Proof.Machine

@[simp] theorem State.setTarget_cfg (s : State) (d : Instance) : (s.setTarget d).cfg = s.cfg := rfl
@[simp] theorem State.setTarget_instances (s : State) (d : Instance) : (s.setTarget d).instances = s.instances.set s.target d := rfl
@[simp] theorem State.setTarget_mem (s : State) (d : Instance) : (s.setTarget d).mem = s.mem := rfl
@[simp] theorem State.setTarget_refusal (s : State) (d : Instance) : (s.setTarget d).refusal = s.refusal := rfl
@[simp] theorem State.setTarget_target (s : State) (d : Instance) : (s.setTarget d).target = s.target := rfl
@[simp] theorem State.setTarget_threads (s : State) (d : Instance) : (s.setTarget d).threads = s.threads := rfl
@[simp] theorem State.setTarget_schedule (s : State) (d : Instance) : (s.setTarget d).schedule = s.schedule := rfl
@[simp] theorem State.setTarget_drawn (s : State) (d : Instance) : (s.setTarget d).drawn = s.drawn := rfl

@[simp] theorem State.aim_cfg (s : State) (k : Nat) : (s.aim k).cfg = s.cfg := rfl
@[simp] theorem State.aim_instances (s : State) (k : Nat) : (s.aim k).instances = s.instances := rfl
@[simp] theorem State.aim_mem (s : State) (k : Nat) : (s.aim k).mem = s.mem := rfl
@[simp] theorem State.aim_refusal (s : State) (k : Nat) : (s.aim k).refusal = s.refusal := rfl
@[simp] theorem State.aim_target (s : State) (k : Nat) : (s.aim k).target = k := rfl
@[simp] theorem State.aim_threads (s : State) (k : Nat) : (s.aim k).threads = s.threads := rfl
@[simp] theorem State.aim_schedule (s : State) (k : Nat) : (s.aim k).schedule = s.schedule := rfl
@[simp] theorem State.aim_drawn (s : State) (k : Nat) : (s.aim k).drawn = s.drawn := rfl

@[simp] theorem State.updThread_cfg (s : State) (t : Nat) (f : HostThread → HostThread) : (s.updThread t f).cfg = s.cfg := rfl
@[simp] theorem State.updThread_instances (s : State) (t : Nat) (f : HostThread → HostThread) : (s.updThread t f).instances = s.instances := rfl
@[simp] theorem State.updThread_mem (s : State) (t : Nat) (f : HostThread → HostThread) : (s.updThread t f).mem = s.mem := rfl
@[simp] theorem State.updThread_refusal (s : State) (t : Nat) (f : HostThread → HostThread) : (s.updThread t f).refusal = s.refusal := rfl
@[simp] theorem State.updThread_target (s : State) (t : Nat) (f : HostThread → HostThread) : (s.updThread t f).target = s.target := rfl
@[simp] theorem State.updThread_threads (s : State) (t : Nat) (f : HostThread → HostThread) : (s.updThread t f).threads = s.threads.modify t f := rfl
@[simp] theorem State.updThread_schedule (s : State) (t : Nat) (f : HostThread → HostThread) : (s.updThread t f).schedule = s.schedule := rfl
@[simp] theorem State.updThread_drawn (s : State) (t : Nat) (f : HostThread → HostThread) : (s.updThread t f).drawn = s.drawn := rfl

@[simp] theorem State.advance_cfg (s : State) (t : Nat) : (s.advance t).cfg = s.cfg := rfl
@[simp] theorem State.advance_instances (s : State) (t : Nat) : (s.advance t).instances = s.instances := rfl
@[simp] theorem State.advance_mem (s : State) (t : Nat) : (s.advance t).mem = s.mem := rfl
@[simp] theorem State.advance_refusal (s : State) (t : Nat) : (s.advance t).refusal = s.refusal := rfl
@[simp] theorem State.advance_target (s : State) (t : Nat) : (s.advance t).target = s.target := rfl
@[simp] theorem State.advance_threads (s : State) (t : Nat) : (s.advance t).threads = s.threads.modify t fun th => { th with line := th.line + 1 } := rfl
@[simp] theorem State.advance_schedule (s : State) (t : Nat) : (s.advance t).schedule = s.schedule := rfl
@[simp] theorem State.advance_drawn (s : State) (t : Nat) : (s.advance t).drawn = s.drawn := rfl

@[simp] theorem State.jump_cfg (s : State) (t l : Nat) : (s.jump t l).cfg = s.cfg := rfl
@[simp] theorem State.jump_instances (s : State) (t l : Nat) : (s.jump t l).instances = s.instances := rfl
@[simp] theorem State.jump_mem (s : State) (t l : Nat) : (s.jump t l).mem = s.mem := rfl
@[simp] theorem State.jump_refusal (s : State) (t l : Nat) : (s.jump t l).refusal = s.refusal := rfl
@[simp] theorem State.jump_target (s : State) (t l : Nat) : (s.jump t l).target = s.target := rfl
@[simp] theorem State.jump_threads (s : State) (t l : Nat) : (s.jump t l).threads = s.threads.modify t fun th => { th with line := l } := rfl
@[simp] theorem State.jump_schedule (s : State) (t l : Nat) : (s.jump t l).schedule = s.schedule := rfl
@[simp] theorem State.jump_drawn (s : State) (t l : Nat) : (s.jump t l).drawn = s.drawn := rfl

@[simp] theorem State.putTemp_cfg (s : State) (t x v : Nat) : (s.putTemp t x v).cfg = s.cfg := rfl
@[simp] theorem State.putTemp_instances (s : State) (t x v : Nat) : (s.putTemp t x v).instances = s.instances := rfl
@[simp] theorem State.putTemp_mem (s : State) (t x v : Nat) : (s.putTemp t x v).mem = s.mem := rfl
@[simp] theorem State.putTemp_refusal (s : State) (t x v : Nat) : (s.putTemp t x v).refusal = s.refusal := rfl
@[simp] theorem State.putTemp_target (s : State) (t x v : Nat) : (s.putTemp t x v).target = s.target := rfl
@[simp] theorem State.putTemp_threads (s : State) (t x v : Nat) : (s.putTemp t x v).threads = s.threads.modify t fun th => { th with temps := setTemp th.temps x v } := rfl
@[simp] theorem State.putTemp_schedule (s : State) (t x v : Nat) : (s.putTemp t x v).schedule = s.schedule := rfl
@[simp] theorem State.putTemp_drawn (s : State) (t x v : Nat) : (s.putTemp t x v).drawn = s.drawn := rfl

@[simp] theorem State.mark_cfg (s : State) (r : RefusalReason) : (s.mark r).cfg = s.cfg := rfl
@[simp] theorem State.mark_instances (s : State) (r : RefusalReason) : (s.mark r).instances = s.instances := rfl
@[simp] theorem State.mark_mem (s : State) (r : RefusalReason) : (s.mark r).mem = s.mem := rfl
@[simp] theorem State.mark_refusal (s : State) (r : RefusalReason) : (s.mark r).refusal = some (s.refusal.getD r) := rfl
@[simp] theorem State.mark_target (s : State) (r : RefusalReason) : (s.mark r).target = s.target := rfl
@[simp] theorem State.mark_threads (s : State) (r : RefusalReason) : (s.mark r).threads = s.threads := rfl
@[simp] theorem State.mark_schedule (s : State) (r : RefusalReason) : (s.mark r).schedule = s.schedule := rfl
@[simp] theorem State.mark_drawn (s : State) (r : RefusalReason) : (s.mark r).drawn = s.drawn := rfl

@[simp] theorem resetBlock_instances (s : State) :
    (resetBlock s).instances = s.instances.map fun _ => Instance.reset := rfl
@[simp] theorem resetBlock_mem (s : State) :
    (resetBlock s).mem = (scramble s (pendingAddrs s)).mem := rfl
@[simp] theorem resetBlock_drawn (s : State) :
    (resetBlock s).drawn = (scramble s (pendingAddrs s)).drawn := rfl

/-- Scrambling changes memory and the draw counter only. -/
theorem scramble_frame (s : State) (addrs : List Nat) :
    (scramble s addrs).cfg = s.cfg ∧ (scramble s addrs).instances = s.instances ∧
    (scramble s addrs).refusal = s.refusal ∧ (scramble s addrs).target = s.target ∧
    (scramble s addrs).threads = s.threads ∧ (scramble s addrs).schedule = s.schedule := by
  induction addrs generalizing s with
  | nil => exact ⟨rfl, rfl, rfl, rfl, rfl, rfl⟩
  | cons a as ih => exact ih _

@[simp] theorem resetBlock_cfg (s : State) : (resetBlock s).cfg = s.cfg :=
  (scramble_frame s _).1
@[simp] theorem resetBlock_refusal (s : State) : (resetBlock s).refusal = s.refusal :=
  (scramble_frame s _).2.2.1
@[simp] theorem resetBlock_target (s : State) : (resetBlock s).target = s.target :=
  (scramble_frame s _).2.2.2.1
@[simp] theorem resetBlock_threads (s : State) : (resetBlock s).threads = s.threads :=
  (scramble_frame s _).2.2.2.2.1
@[simp] theorem resetBlock_schedule (s : State) : (resetBlock s).schedule = s.schedule :=
  (scramble_frame s _).2.2.2.2.2

/-- Writing an operand register leaves STATUS, KERNEL and the pending record alone. -/
@[simp] theorem Instance.writeReg_status (d : Instance) (c : Config) (r : RegName) (v : Nat) :
    (d.writeReg c r v).status = d.status := by cases r <;> rfl
@[simp] theorem Instance.writeReg_kernel (d : Instance) (c : Config) (r : RegName) (v : Nat) :
    (d.writeReg c r v).kernel = d.kernel := by cases r <;> rfl
@[simp] theorem Instance.writeReg_pending (d : Instance) (c : Config) (r : RegName) (v : Nat) :
    (d.writeReg c r v).pending = d.pending := by cases r <;> rfl
@[simp] theorem Instance.writeReg_busy (d : Instance) (c : Config) (r : RegName) (v : Nat) :
    (d.writeReg c r v).busy = d.busy := by cases r <;> rfl

/-- BUSY is 0 exactly when nothing is pending (R37). -/
theorem Instance.busy_eq_false_iff (d : Instance) : d.busy = false ↔ d.pending = none := by
  unfold Instance.busy
  cases d.pending <;> simp

/-- The operands of a CONVERT do not depend on STATUS, KERNEL, the tags or the pending record. -/
@[simp] theorem Instance.frame?_with_status (d : Instance) (c : StatusCode) :
    ({ d with status := c } : Instance).frame? = d.frame? := rfl
@[simp] theorem Instance.frame?_with_kernel (d : Instance) (k : Option Layout) :
    ({ d with kernel := k } : Instance).frame? = d.frame? := rfl
@[simp] theorem Instance.frame?_with_pending (d : Instance) (p : Option Packer) :
    ({ d with pending := p } : Instance).frame? = d.frame? := rfl

/-- BUSY and the operands of SELECT do not depend on STATUS and KERNEL. -/
@[simp] theorem Instance.busy_with_status (d : Instance) (c : StatusCode) :
    ({ d with status := c } : Instance).busy = d.busy := rfl
@[simp] theorem Instance.busy_with_kernel (d : Instance) (k : Option Layout) :
    ({ d with kernel := k } : Instance).busy = d.busy := rfl
@[simp] theorem Instance.busy_with_pending_none (d : Instance) :
    ({ d with pending := none } : Instance).busy = false := rfl
@[simp] theorem Instance.selectOperands?_with_status (d : Instance) (c : StatusCode) :
    ({ d with status := c } : Instance).selectOperands? = d.selectOperands? := rfl
@[simp] theorem Instance.selectOperands?_with_kernel (d : Instance) (k : Option Layout) :
    ({ d with kernel := k } : Instance).selectOperands? = d.selectOperands? := rfl

/-- SELECT has its operands exactly when its four registers hold values (R33). -/
theorem Instance.selectOperands?_eq_some (d : Instance) (o : SelectOperands) :
    d.selectOperands? = some o ↔ d.srcTag = some o.src ∧ d.dstTag = some o.dst ∧
      d.width = some o.width ∧ d.height = some o.height := by
  obtain ⟨a, b, w, h⟩ := o
  unfold Instance.selectOperands?
  cases d.srcTag <;> cases d.dstTag <;> cases d.width <;> cases d.height <;> simp

/-- A CONVERT has its operands exactly when its ten registers hold values (R33). -/
theorem Instance.frame?_eq_some (d : Instance) (f : FrameDesc) :
    d.frame? = some f ↔ ∃ w h, d.width = some w ∧ d.height = some h ∧ f.width = w.toNat ∧
      f.height = h.toNat ∧ d.yBase = some f.yBase ∧ d.yStride = some f.yStride ∧
      d.uBase = some f.uBase ∧ d.uStride = some f.uStride ∧ d.vBase = some f.vBase ∧
      d.vStride = some f.vStride ∧ d.dBase = some f.dBase ∧ d.dStride = some f.dStride := by
  obtain ⟨a1, a2, a3, a4, a5, a6, a7, a8, a9, a10⟩ := f
  unfold Instance.frame?
  constructor
  · intro h
    split at h
    · cases h; exact ⟨_, _, ‹_›, ‹_›, rfl, rfl, ‹_›, ‹_›, ‹_›, ‹_›, ‹_›, ‹_›, ‹_›, ‹_›⟩
    · cases h
  · rintro ⟨w, h, e1, e2, rfl, rfl, e3, e4, e5, e6, e7, e8, e9, e10⟩
    simp only [e1, e2, e3, e4, e5, e6, e7, e8, e9, e10]

end Sys2Proof.Machine
end

