-- ==== Sys2Proof/Laws/Exec.lean ====
section
/-! SUPPORT. Once for each shared operation: what it can answer. -/

namespace Sys2Proof.Machine

/-- On a copy of the block that exists, an access is `f` of it. -/
theorem State.onTarget_of {s : State} {d : Instance} (f : Instance → Result)
    (h : s.instances[s.target]? = some d) : s.onTarget f = f d := by
  simp [State.onTarget, h]

theorem State.onTarget_next {s t : State} {f : Instance → Result} (h : s.onTarget f = .next t) :
    ∃ d, s.instances[s.target]? = some d ∧ f d = .next t := by
  cases hd : s.instances[s.target]? with
  | none => simp [State.onTarget, hd] at h
  | some d => exact ⟨d, rfl, by rwa [State.onTarget_of f hd] at h⟩

/-- The copy of the block that was just replaced is the addressed one. -/
theorem State.setTarget_get {s : State} {d e : Instance} (h : s.instances[s.target]? = some d) :
    (s.setTarget e).instances[(s.setTarget e).target]? = some e := by
  obtain ⟨hlt, -⟩ := List.getElem?_eq_some_iff.mp h
  simp [hlt]

/-- Every other copy of the block stays (R40). -/
theorem State.setTarget_get_other {s : State} {e : Instance} {j : Nat} (h : j ≠ s.target) :
    (s.setTarget e).instances[j]? = s.instances[j]? := by
  simp [Ne.symm h]

/-- A write of an operand register: refused while BUSY, else that register only. -/
theorem writeOperandReg_next {r : RegName} {v : Nat} {s t : State}
    (h : writeOperandReg r v s = .next t) :
    ∃ d, s.instances[s.target]? = some d ∧
      ((d.busy = true ∧ t = s.mark .writeWhileBusy) ∨
       (d.busy = false ∧ t = s.setTarget (d.writeReg s.cfg r v))) := by
  obtain ⟨d, hd, h⟩ := State.onTarget_next h
  refine ⟨d, hd, ?_⟩
  cases hb : d.busy <;> simp only [hb, State.refuse] at h <;> cases h <;> simp

/-- The issue step of a CONVERT: refused, or pending. -/
theorem issueConvert_next {p : Packer} {s t : State} (h : issueConvert p s = .next t) :
    ∃ d, s.instances[s.target]? = some d ∧
      ((d.busy = true ∧ t = s.mark .writeWhileBusy) ∨
       (d.busy = false ∧ d.frame? = none ∧ t = s.mark .unwrittenOperand) ∨
       (∃ f, d.busy = false ∧ d.frame? = some f ∧ f.legal p s.cfg = false ∧
         t = s.mark .convertPrecondition) ∨
       (∃ f, d.busy = false ∧ d.frame? = some f ∧ f.legal p s.cfg = true ∧
         t = s.setTarget { d with pending := some p })) := by
  obtain ⟨d, hd, h⟩ := State.onTarget_next h
  refine ⟨d, hd, ?_⟩
  cases hb : d.busy
  · cases hf : d.frame? with
    | none => simp only [hb, hf, State.refuse] at h; cases h; simp
    | some f =>
      cases hl : f.legal p s.cfg <;> simp only [hb, hf, hl, State.refuse] at h <;> cases h <;>
        simp [hl]
  · simp only [hb, State.refuse] at h; cases h; simp

/-- SELECT: refused, or STATUS and KERNEL take the selector's result. -/
theorem execSelect_next {s t : State} (h : execSelect s = .next t) :
    ∃ d, s.instances[s.target]? = some d ∧
      ((d.busy = true ∧ t = s.mark .writeWhileBusy) ∨
       (d.busy = false ∧ d.selectOperands? = none ∧ t = s.mark .unwrittenOperand) ∨
       (∃ o, d.busy = false ∧ d.selectOperands? = some o ∧
         t = s.setTarget { d with
           status := (selector s.cfg o.src o.dst o.width o.height).1
           kernel := (selector s.cfg o.src o.dst o.width o.height).2 })) := by
  obtain ⟨d, hd, h⟩ := State.onTarget_next h
  refine ⟨d, hd, ?_⟩
  cases hb : d.busy
  · cases ho : d.selectOperands? <;>
      simp only [hb, ho, State.refuse, completeSelect, State.report] at h <;> cases h <;> simp
  · simp only [hb, State.refuse] at h; cases h; simp

/-- An operation that only records a code: refused while BUSY, else STATUS only. -/
theorem report_next {c : StatusCode} {s t : State}
    (h : (s.onTarget fun d => if d.busy then s.refuse .writeWhileBusy else s.report d c) = .next t) :
    ∃ d, s.instances[s.target]? = some d ∧
      ((d.busy = true ∧ t = s.mark .writeWhileBusy) ∨
       (d.busy = false ∧ t = s.setTarget { d with status := c })) := by
  obtain ⟨d, hd, h⟩ := State.onTarget_next h
  refine ⟨d, hd, ?_⟩
  cases hb : d.busy <;> simp only [hb, State.refuse, State.report] at h <;> cases h <;> simp

/-- An illegal command word: refused while BUSY, else STATUS only (R91). -/
theorem illegalCommand_next {s t : State} (h : illegalCommand s = .next t) :
    ∃ d, s.instances[s.target]? = some d ∧
      ((d.busy = true ∧ t = s.mark .writeWhileBusy) ∨
       (d.busy = false ∧ t = s.setTarget { d with status := .illegalCommand })) := report_next h

/-- The packer's perform step: nothing to do, refused, or the whole conversion (R136). -/
theorem perform_next {k : Nat} {s t : State} (h : perform k s = .next t) :
    t = s ∨ t = s.mark .unwrittenOperand ∨ t = s.mark .bufferWriteWhileBusy ∨
    ∃ d p f, s.instances[k]? = some d ∧ d.pending = some p ∧ d.frame? = some f ∧
      conflictsWith s k (p, f) = false ∧
      t = { s with
        mem := packFrame s.mem p f
        instances := s.instances.set k { d with status := .ok, pending := none } } := by
  unfold perform at h
  split at h
  · cases h; exact .inl rfl
  · rename_i d hd
    split at h
    · cases h; exact .inl rfl
    · rename_i p hp
      split at h
      · cases h; exact .inr (.inl rfl)
      · rename_i f hf
        cases hc : conflictsWith s k (p, f) <;> simp only [hc, State.refuse] at h <;> cases h
        · exact .inr (.inr (.inr ⟨d, p, f, hd, hp, hf, hc, rfl⟩))
        · exact .inr (.inr (.inl rfl))

end Sys2Proof.Machine
end

