-- ==== Sys2Proof/Laws/Memory.lean ====
section
/-! SUPPORT. The laws of memory: read after write, and the canonical form. -/

namespace Sys2Proof.Machine

/-- An address below every listed one is not listed. -/
theorem Memory.read_of_lt_all (m : Memory) (a : Nat) (h : ∀ c ∈ m, a < c.1) :
    Memory.read m a = Memory.background := by
  induction m with
  | nil => rfl
  | cons c m ih =>
    have hc := h c (by simp)
    simp only [Memory.read]
    rw [if_neg (by omega)]
    exact ih fun x hx => h x (by simp [hx])

/-- A write leaves every other address alone. -/
theorem Memory.read_write_other (m : Memory) {a a' : Nat} (b : Byte) (h : a' ≠ a) :
    Memory.read (Memory.write m a b) a' = Memory.read m a' := by
  induction m with
  | nil => by_cases hb : b = Memory.background <;> simp [Memory.write, Memory.read, hb, h]
  | cons c m ih =>
    obtain ⟨k, v⟩ := c
    simp only [Memory.write]
    split_ifs with h1 h2 h3 h4
    · rfl
    · simp [Memory.read, h]
    · subst h3; simp [Memory.read, h]
    · subst h3; simp [Memory.read, h]
    · simp only [Memory.read, ih]

/-- A write reads back at its address. -/
theorem Memory.read_write_same (m : Memory) (a : Nat) (b : Byte) (hm : Memory.wf m) :
    Memory.read (Memory.write m a b) a = b := by
  induction m with
  | nil =>
    by_cases hb : b = Memory.background <;> simp [Memory.write, Memory.read, hb]
  | cons c m ih =>
    obtain ⟨k, v⟩ := c
    obtain ⟨hs, hb⟩ := hm
    rw [List.pairwise_cons] at hs
    have htail : Memory.wf m := ⟨hs.2, fun x hx => hb x (by simp [hx])⟩
    simp only [Memory.write]
    split_ifs with h1 h2 h3 h4
    · rw [h2]
      exact Memory.read_of_lt_all _ a fun x hx => by
        rcases List.mem_cons.mp hx with rfl | hx
        · exact h1
        · exact lt_trans h1 (hs.1 x hx)
    · simp [Memory.read]
    · subst h3; rw [h4]
      exact Memory.read_of_lt_all _ a fun x hx => hs.1 x hx
    · simp [Memory.read]
    · simp only [Memory.read, if_neg h3]; exact ih htail

/-- Read after write. -/
theorem Memory.read_write (m : Memory) (a a' : Nat) (b : Byte) (hm : Memory.wf m) :
    Memory.read (Memory.write m a b) a' = if a' = a then b else Memory.read m a' := by
  split_ifs with h
  · subst h; exact Memory.read_write_same m _ b hm
  · exact Memory.read_write_other m b h

/-- A write lists no address but the one it writes and those that were listed. -/
theorem Memory.mem_write {m : Memory} {a : Nat} {b : Byte} {c : Host.Cell}
    (h : c ∈ Memory.write m a b) : (c = (a, b) ∧ b ≠ Memory.background) ∨ c ∈ m := by
  induction m with
  | nil => by_cases hb : b = Memory.background <;> simp_all [Memory.write]
  | cons x m ih =>
    obtain ⟨k, v⟩ := x
    simp only [Memory.write] at h
    split_ifs at h with h1 h2 h3 h4
    · exact .inr h
    · rcases List.mem_cons.mp h with rfl | h
      · exact .inl ⟨rfl, h2⟩
      · exact .inr h
    · exact .inr (List.mem_cons_of_mem _ h)
    · rcases List.mem_cons.mp h with rfl | h
      · exact .inl ⟨rfl, h4⟩
      · exact .inr (List.mem_cons_of_mem _ h)
    · rcases List.mem_cons.mp h with rfl | h
      · exact .inr (by simp)
      · exact (ih h).imp_right (List.mem_cons_of_mem _)

/-- A write keeps the canonical form. -/
theorem Memory.write_wf (m : Memory) (a : Nat) (b : Byte) (hm : Memory.wf m) :
    Memory.wf (Memory.write m a b) := by
  refine ⟨?_, fun c hc => ?_⟩
  · induction m with
    | nil => by_cases hb : b = Memory.background <;> simp [Memory.write, hb]
    | cons x m ih =>
      obtain ⟨k, v⟩ := x
      obtain ⟨hs, hb⟩ := hm
      have hs' := hs
      rw [List.pairwise_cons] at hs
      have htail : Memory.wf m := ⟨hs.2, fun y hy => hb y (by simp [hy])⟩
      simp only [Memory.write]
      split_ifs with h1 h2 h3 h4
      · exact hs'
      · refine List.pairwise_cons.mpr ⟨fun y hy => ?_, hs'⟩
        rcases List.mem_cons.mp hy with rfl | hy
        · exact h1
        · exact lt_trans h1 (hs.1 y hy)
      · exact hs.2
      · subst h3; exact List.pairwise_cons.mpr ⟨hs.1, hs.2⟩
      · refine List.pairwise_cons.mpr ⟨fun y hy => ?_, ih htail⟩
        rcases Memory.mem_write hy with ⟨rfl, -⟩ | hy
        · show k < a; omega
        · exact hs.1 y hy
  · rcases Memory.mem_write hc with ⟨rfl, hb⟩ | hc
    · exact hb
    · exact hm.2 c hc

/-- Several writes keep the canonical form. -/
theorem Memory.writeAll_wf (m : Memory) (cells : List Host.Cell) (hm : Memory.wf m) :
    Memory.wf (Memory.writeAll m cells) := by
  induction cells generalizing m with
  | nil => exact hm
  | cons c cs ih => exact ih _ (Memory.write_wf m _ _ hm)

/-- An address that none of the writes names reads as before. -/
theorem Memory.read_writeAll_other (m : Memory) (cells : List Host.Cell) (a : Nat)
    (h : ∀ c ∈ cells, c.1 ≠ a) : Memory.read (Memory.writeAll m cells) a = Memory.read m a := by
  induction cells generalizing m with
  | nil => rfl
  | cons c cs ih =>
    have := ih (Memory.write m c.1 c.2) fun x hx => h x (by simp [hx])
    exact this.trans (Memory.read_write_other m c.2 (h c (by simp)).symm)

/-- An address that one of the writes names, and only one, reads as that write says. -/
theorem Memory.read_writeAll_same (m : Memory) (cells : List Host.Cell) (c : Host.Cell)
    (hm : Memory.wf m) (hn : (cells.map (·.1)).Nodup) (hc : c ∈ cells) :
    Memory.read (Memory.writeAll m cells) c.1 = c.2 := by
  induction cells generalizing m with
  | nil => simp at hc
  | cons x cs ih =>
    rw [List.map_cons, List.nodup_cons] at hn
    rcases List.mem_cons.mp hc with rfl | hc
    · have : ∀ y ∈ cs, y.1 ≠ c.1 := fun y hy e => hn.1 (List.mem_map.mpr ⟨y, hy, e⟩)
      exact (Memory.read_writeAll_other _ cs _ this).trans (Memory.read_write_same m _ _ hm)
    · exact ih _ (Memory.write_wf m _ _ hm) hn.2 hc

/-- Several writes list no address but those they write and those that were listed. -/
theorem Memory.mem_writeAll {m : Memory} {cells : List Host.Cell} {c : Host.Cell}
    (h : c ∈ Memory.writeAll m cells) : c ∈ cells ∨ c ∈ m := by
  induction cells generalizing m with
  | nil => exact .inr h
  | cons x cs ih =>
    rcases ih h with h | h
    · exact .inl (List.mem_cons_of_mem _ h)
    · rcases Memory.mem_write h with ⟨rfl, -⟩ | h
      · exact .inl (by simp)
      · exact .inr h

/-- The memory of reset is canonical. -/
theorem Memory.reset_wf : Memory.wf State.reset.mem := by decide

end Sys2Proof.Machine
end

