-- ==== Sys2Proof/Laws/Agents.lean ====
section
/-! SUPPORT. Once for each thing an agent does: what it can answer. -/

namespace Sys2Proof.Machine

/-- Scrambling leaves every address it does not name alone. -/
theorem scramble_read_other (s : State) (addrs : List Nat) (a : Nat) (h : a ∉ addrs) :
    Memory.read (scramble s addrs).mem a = Memory.read s.mem a := by
  induction addrs generalizing s with
  | nil => rfl
  | cons x xs ih =>
    rw [List.mem_cons, not_or] at h
    exact (ih _ h.2).trans (Memory.read_write_other _ _ h.1)

/-- Scrambling keeps the canonical form. -/
theorem scramble_wf (s : State) (addrs : List Nat) (hm : Memory.wf s.mem) :
    Memory.wf (scramble s addrs).mem := by
  induction addrs generalizing s with
  | nil => exact hm
  | cons x xs ih => exact ih _ (Memory.write_wf _ _ _ hm)

/-- Scrambling lists no address but those it names and those that were listed. -/
theorem mem_scramble {s : State} {addrs : List Nat} {c : Host.Cell}
    (h : c ∈ (scramble s addrs).mem) : c.1 ∈ addrs ∨ c ∈ s.mem := by
  induction addrs generalizing s with
  | nil => exact .inr h
  | cons x xs ih =>
    rcases ih h with h | h
    · exact .inl (List.mem_cons_of_mem _ h)
    · rcases Memory.mem_write h with ⟨rfl, -⟩ | h
      · exact .inl (by simp)
      · exact .inr h

/-- Each address takes a draw of its own. -/
theorem scramble_drawn (s : State) (addrs : List Nat) :
    (scramble s addrs).drawn = s.drawn + addrs.length := by
  induction addrs generalizing s with
  | nil => rfl
  | cons x xs ih =>
    refine (ih _).trans ?_
    simp only [List.length_cons]
    omega

/-- A delivered word: a row of the table runs, or it is illegal, or it is only a register value. -/
theorem deliver_next {k : Nat} {p : Port} {w : Word} {s t : State}
    (h : deliver k p w s = .next t) :
    (∃ i, decode p w = .instr i ∧ exec i (s.aim k) = .next t) ∨
    (∃ e, decode p w = .rejected e ∧
      ((p = .cmd ∧ illegalCommand (s.aim k) = .next t) ∨
       (p = .srcTag ∧ writeOperandReg .srcTag w.toNat (s.aim k) = .next t) ∨
       (p = .dstTag ∧ writeOperandReg .dstTag w.toNat (s.aim k) = .next t))) := by
  unfold deliver at h
  split at h
  · exact .inl ⟨_, ‹_›, h⟩
  · refine .inr ⟨_, ‹_›, ?_⟩
    cases p
    · exact .inl ⟨rfl, h⟩
    · exact .inr (.inl ⟨rfl, h⟩)
    · exact .inr (.inr ⟨rfl, h⟩)

/-- A register write: a delivered word, an operand register, or a read-only register that ignores it. -/
theorem writeRegister_next {k : Nat} {r : RegName} {v : Nat} {s t : State}
    (h : writeRegister k r v s = .next t) :
    (∃ p, portOf r = some p ∧ deliver k p (BitVec.ofNat 32 v) s = .next t) ∨
    (portOf r = none ∧ isOperandReg r = true ∧ writeOperandReg r v (s.aim k) = .next t) ∨
    (isOperandReg r = false ∧ t = s.aim k) := by
  unfold writeRegister at h
  split at h
  · exact .inl ⟨_, ‹_›, h⟩
  · split at h
    · exact .inr (.inl ⟨‹_›, ‹_›, h⟩)
    · obtain ⟨d, -, h⟩ := State.onTarget_next h
      cases h
      exact .inr (.inr ⟨by simp_all, rfl⟩)

/-- A register read: the value goes to the temporary, or the register holds none. -/
theorem readRegister_next {k : Nat} {r : RegName} {t x : Nat} {s s' : State}
    (h : readRegister k r t x s = .next s') :
    ∃ d, s.instances[k]? = some d ∧
      ((∃ v, d.readReg r = some v ∧ s' = (s.aim k).putTemp t x v) ∨
       (d.readReg r = none ∧ s' = (s.aim k).mark .unwrittenOperand)) := by
  obtain ⟨d, hd, h⟩ := State.onTarget_next h
  refine ⟨d, hd, ?_⟩
  cases hv : d.readReg r <;> simp only [hv, State.refuse] at h <;> cases h <;> simp

/-- `wait`: the thread stays while BUSY, else it goes on. -/
theorem waitIdle_next {k t : Nat} {s s' : State} (h : waitIdle k t s = .next s') :
    ∃ d, s.instances[k]? = some d ∧
      ((d.busy = true ∧ s' = s.aim k) ∨ (d.busy = false ∧ s' = (s.aim k).advance t)) := by
  obtain ⟨d, hd, h⟩ := State.onTarget_next h
  refine ⟨d, hd, ?_⟩
  cases hb : d.busy <;> simp only [hb] at h <;> cases h <;> simp

/-- A host store: refused in a pending CONVERT's buffers, else one byte of memory. -/
theorem hostStore_next {a v : Nat} {s t : State} (h : hostStore a v s = .next t) :
    a < 2 ^ s.cfg.addrBits ∧ s.cfg.ordinary a = true ∧
      (((inPendingWriteSet s a || inPendingFootprint s a) = true ∧
          t = s.mark .bufferWriteWhileBusy) ∨
       ((inPendingWriteSet s a || inPendingFootprint s a) = false ∧
          t = { s with mem := Memory.write s.mem a (BitVec.ofNat 8 v) })) := by
  unfold hostStore at h
  split_ifs at h with h1 h2 h3
  · cases h; exact ⟨by omega, by simpa using h2, .inl ⟨h3, rfl⟩⟩
  · cases h; exact ⟨by omega, by simpa using h2, .inr ⟨by simpa using h3, rfl⟩⟩

/-- A host load: a draw in a pending write set, else the byte of memory. -/
theorem hostLoad_next {a t x : Nat} {s s' : State} (h : hostLoad a t x s = .next s') :
    a < 2 ^ s.cfg.addrBits ∧ s.cfg.ordinary a = true ∧
      ((inPendingWriteSet s a = true ∧
          s' = { s with drawn := s.drawn + 1 }.putTemp t x (Config.draw s.drawn).toNat) ∨
       (inPendingWriteSet s a = false ∧ s' = s.putTemp t x (Memory.read s.mem a).toNat)) := by
  unfold hostLoad at h
  split_ifs at h with h1 h2 h3
  · cases h; exact ⟨by omega, by simpa using h2, .inl ⟨h3, rfl⟩⟩
  · cases h; exact ⟨by omega, by simpa using h2, .inr ⟨by simpa using h3, rfl⟩⟩

/-- Taking a move off the schedule changes the schedule only. -/
theorem nextMove_state (s : State) :
    (nextMove s).2 = { s with schedule := (nextMove s).2.schedule } := by
  unfold nextMove; split <;> rfl

/-- The move on the schedule is the next one. -/
theorem step_of_scheduled {s : State} {m : Move} {ms : List Move} (h : s.schedule = m :: ms) :
    step s = runMove m { s with schedule := ms } := by
  simp [step, nextMove, h]

/-- With nothing scheduled the default move is the next one. -/
theorem step_of_unscheduled {s : State} (h : s.schedule = []) : step s = runMove (defaultMove s) s := by
  simp [step, nextMove, h]

/-- A host thread's move: nothing at the end of its program, else the action of its line. -/
theorem runThread_next {t : Nat} {s s' : State} (h : runThread t s = .next s') :
    (fetchAction s t = none ∧ s' = s) ∨
    ∃ a, fetchAction s t = some a ∧ runAction t a s = .next s' := by
  unfold runThread at h
  split at h
  · exact .inr ⟨_, ‹_›, h⟩
  · cases h; exact .inl ⟨‹_›, rfl⟩

end Sys2Proof.Machine
end

