-- ==== Sys2Proof/Laws/Region.lean ====
section
/-! SUPPORT. What the checks on regions mean, address by address. -/

namespace Sys2Proof

theorem Region.contains_iff (g : Region) (a : Nat) :
    g.contains a = true ↔ ∃ y < g.rows, g.start y ≤ a ∧ a < g.start y + g.extent := by
  simp [Region.contains]

theorem Region.mem_addrs_iff (g : Region) (a : Nat) : a ∈ g.addrs ↔ g.contains a = true := by
  rw [Region.contains_iff]
  simp only [Region.addrs, List.mem_flatMap, List.mem_range, List.mem_map]
  constructor
  · rintro ⟨y, hy, i, hi, rfl⟩
    exact ⟨y, hy, by omega, by omega⟩
  · rintro ⟨y, hy, h1, h2⟩
    exact ⟨y, hy, a - g.start y, by omega, by omega⟩

/-- A region that fits lies inside the address space (R56). -/
theorem Region.lt_of_contains_of_fits (g : Region) (bits a : Nat) (hf : g.fits bits = true)
    (h : g.contains a = true) : a < 2 ^ bits := by
  obtain ⟨y, hy, h1, h2⟩ := (Region.contains_iff g a).mp h
  have hf := of_decide_eq_true hf (by omega) (by omega)
  have hm : y * g.stride ≤ (g.rows - 1) * g.stride := Nat.mul_le_mul_right _ (by omega)
  unfold Region.start at h2
  omega

theorem Region.apart_comm (g h : Region) : g.apart h = h.apart g := by
  rw [Bool.eq_iff_iff]
  simp only [Region.apart, List.all_eq_true, List.mem_range, decide_eq_true_eq]
  constructor <;> intro H y hy z hz <;> have := H z hz y hy <;> tauto

end Sys2Proof
end

