-- ==== Sys2Proof/Laws/Pack.lean ====
section
/-! SUPPORT. What `pack` writes (R137): each byte of the write set once, and nothing else. -/

namespace Sys2Proof.Machine

theorem mem_packCells (m : Memory) (p : Packer) (f : FrameDesc) (c : Host.Cell) :
    c ∈ packCells m p f ↔ ∃ r < f.height, ∃ i < p.rowBytes f.width,
      c = (f.dstAddr i r, outputByte m p f i (p.sourceRow f.height r)) := by
  simp only [packCells, List.mem_flatMap, List.mem_range, List.mem_map, eq_comm]

/-- The write set is the set of `Dst(i, r)` (R54). -/
theorem writeSet_contains_iff (f : FrameDesc) (p : Packer) (a : Nat) :
    (f.writeSet p).contains a = true ↔
      ∃ r < f.height, ∃ i < p.rowBytes f.width, a = f.dstAddr i r := by
  rw [Region.contains_iff]
  simp only [FrameDesc.writeSet, Region.start, FrameDesc.dstAddr]
  constructor
  · rintro ⟨r, hr, h1, h2⟩
    exact ⟨r, hr, a - (f.dBase + r * f.dStride), by omega, by omega⟩
  · rintro ⟨r, hr, i, hi, rfl⟩
    exact ⟨r, hr, by omega, by omega⟩

/-- With a stride of at least a row, two places in the write set with one address are one place. -/
theorem dstAddr_inj (f : FrameDesc) (n : Nat) (hn : n ≤ f.dStride) {i j r q : Nat} (hi : i < n)
    (hj : j < n) (h : f.dstAddr i r = f.dstAddr j q) : i = j ∧ r = q := by
  unfold FrameDesc.dstAddr at h
  have key : ∀ {i j r q : Nat}, i < n → r < q →
      f.dBase + r * f.dStride + i = f.dBase + q * f.dStride + j → False := by
    intro i j r q hi hrq h
    have : (r + 1) * f.dStride ≤ q * f.dStride := Nat.mul_le_mul_right _ hrq
    rw [Nat.succ_mul] at this
    omega
  rcases lt_trichotomy r q with hrq | rfl | hrq
  · exact (key hi hrq h).elim
  · exact ⟨by omega, rfl⟩
  · exact (key hj hrq h.symm).elim

/-- No byte of the write set is written twice. -/
theorem packCells_nodup (m : Memory) (p : Packer) (f : FrameDesc)
    (hn : p.rowBytes f.width ≤ f.dStride) : ((packCells m p f).map (·.1)).Nodup := by
  simp only [packCells, List.map_flatMap, List.map_map]
  rw [List.nodup_flatMap]
  refine ⟨fun r _ => ?_, ?_⟩
  · refine (List.nodup_map_iff_inj_on List.nodup_range).mpr fun i hi j hj h => ?_
    exact (dstAddr_inj f _ hn (List.mem_range.mp hi) (List.mem_range.mp hj) h).1
  · refine List.Pairwise.imp ?_ (List.pairwise_lt_range (n := f.height))
    intro r q hrq a ha hb
    simp only [List.mem_map, List.mem_range, Function.comp_apply] at ha hb
    obtain ⟨i, hi, rfl⟩ := ha
    obtain ⟨j, hj, h⟩ := hb
    exact absurd (dstAddr_inj f _ hn hj hi h).2 (by omega)

/-- Every byte of the write set takes its rule's value (R137, R138). -/
theorem read_packFrame_same (m : Memory) (p : Packer) (f : FrameDesc) (hm : Memory.wf m)
    (hn : p.rowBytes f.width ≤ f.dStride) {i r : Nat} (hr : r < f.height)
    (hi : i < p.rowBytes f.width) :
    Memory.read (packFrame m p f) (f.dstAddr i r) =
      outputByte m p f i (p.sourceRow f.height r) :=
  Memory.read_writeAll_same m _ (f.dstAddr i r, _) hm (packCells_nodup m p f hn)
    ((mem_packCells m p f _).mpr ⟨r, hr, i, hi, rfl⟩)

/-- No byte outside the write set is written (R62). -/
theorem read_packFrame_other (m : Memory) (p : Packer) (f : FrameDesc) (a : Nat)
    (h : (f.writeSet p).contains a = false) :
    Memory.read (packFrame m p f) a = Memory.read m a := by
  refine Memory.read_writeAll_other m _ a fun c hc e => ?_
  obtain ⟨r, hr, i, hi, rfl⟩ := (mem_packCells m p f c).mp hc
  exact Bool.false_ne_true
    (h.symm.trans ((writeSet_contains_iff f p a).mpr ⟨r, hr, i, hi, e.symm⟩))

/-- `pack` keeps the canonical form. -/
theorem packFrame_wf (m : Memory) (p : Packer) (f : FrameDesc) (hm : Memory.wf m) :
    Memory.wf (packFrame m p f) := Memory.writeAll_wf m _ hm

/-- `pack` lists no address but those of the write set and those that were listed. -/
theorem mem_packFrame {m : Memory} {p : Packer} {f : FrameDesc} {c : Host.Cell}
    (h : c ∈ packFrame m p f) : (f.writeSet p).contains c.1 = true ∨ c ∈ m := by
  rcases Memory.mem_writeAll h with h | h
  · obtain ⟨r, hr, i, hi, rfl⟩ := (mem_packCells m p f c).mp h
    exact .inl ((writeSet_contains_iff f p _).mpr ⟨r, hr, i, hi, rfl⟩)
  · exact .inr h

end Sys2Proof.Machine
end

