-- ==== Sys2Proof/Laws/PerInstr.lean ====
section
/-! SUPPORT. The families of statements about every row of the opcode table. -/

namespace Sys2Proof.Laws.TableWord

/-- The row is well formed, and the decoder finds it again from the bits of its table row. -/
def Statement (i : Instr) : Prop :=
  i.wf = true ∧ decodeTableWord 32 (encode i).2.toNat = some i

theorem select : Statement .select := ⟨rfl, rfl⟩
theorem convertYuyv : Statement .convertYuyv := ⟨rfl, rfl⟩
theorem convertYvyu : Statement .convertYvyu := ⟨rfl, rfl⟩
theorem convertUyvy : Statement .convertUyvy := ⟨rfl, rfl⟩
theorem convertIuyv : Statement .convertIuyv := ⟨rfl, rfl⟩
theorem convertCyuv : Statement .convertCyuv := ⟨rfl, rfl⟩
theorem convertY211 : Statement .convertY211 := ⟨rfl, rfl⟩
theorem srcI422 : Statement .srcI422 := ⟨rfl, rfl⟩
theorem dstYuy2 : Statement .dstYuy2 := ⟨rfl, rfl⟩
theorem dstYunv : Statement .dstYunv := ⟨rfl, rfl⟩
theorem dstYvyu : Statement .dstYvyu := ⟨rfl, rfl⟩
theorem dstUyvy : Statement .dstUyvy := ⟨rfl, rfl⟩
theorem dstUynv : Statement .dstUynv := ⟨rfl, rfl⟩
theorem dstY422 : Statement .dstY422 := ⟨rfl, rfl⟩
theorem dstIuyv : Statement .dstIuyv := ⟨rfl, rfl⟩
theorem dstCyuv : Statement .dstCyuv := ⟨rfl, rfl⟩
theorem dstY211 : Statement .dstY211 := ⟨rfl, rfl⟩

end Sys2Proof.Laws.TableWord
end

