-- ==== Sys2Proof/Tests/Slice0.lean ====
section
/-! SUPPORT. The model's own tests, from the spec's vectors (95_test_vectors.md), and for every statement
with hypotheses a state that meets them. -/

namespace Sys2Proof.Tests

open Sys2Proof Sys2Proof.Machine

/-! ## Small states -/

/-- Frame C of the spec's vectors: 2 columns, 2 rows. -/
def frameC : FrameDesc :=
  { width := 2, height := 2, yBase := 0, yStride := 2, uBase := 16, uStride := 1, vBase := 32,
    vStride := 1, dBase := 64, dStride := 4 }

def memC : Memory :=
  [(0, 1), (1, 2), (2, 11), (3, 12), (16, 50), (17, 51), (32, 60), (33, 61)]

/-- A copy of the block with tags 'I422', 'YUY2' and the operands `f`. -/
def devOf (f : FrameDesc) : Instance :=
  { Instance.reset with
    srcTag := some 0x32323449#32, dstTag := some 0x32595559#32
    width := some (BitVec.ofNat 32 f.width), height := some (BitVec.ofNat 32 f.height)
    yBase := some f.yBase, yStride := some f.yStride, uBase := some f.uBase
    uStride := some f.uStride, vBase := some f.vBase, vStride := some f.vStride
    dBase := some f.dBase, dStride := some f.dStride }

def devC : Instance := devOf frameC

def busyC (p : Packer) : Instance := { devC with pending := some p }

def stateOf (m : Memory) (ds : List Instance) : State :=
  { State.reset with instances := ds, mem := m }

def idleC : State := stateOf memC [devC]

def pendingC (p : Packer) : State := stateOf memC [busyC p]

def nextOf : Result → Option State
  | .next t => some t
  | .fault _ => none
  | .refused _ => none

/-- Bytes `a` to `a + n - 1` of the memory of the next state. -/
def bytesAfter (o : Result) (a n : Nat) : List Nat :=
  match o with
  | .next t => (List.range n).map fun i => (Memory.read t.mem (a + i)).toNat
  | .fault _ => []
  | .refused _ => []

/-! ## Encoding (R81, R84, R90; vectors E1 to E15) -/

theorem test_decode_select : decode .cmd 0b00000000000000000000000000000001#32 = .instr .select := by
  decide
theorem test_decode_yuyv :
    decode .cmd 0b00000000000000000000000000000010#32 = .instr .convertYuyv := by decide
theorem test_decode_yvyu :
    decode .cmd 0b00000000000000000000000000000110#32 = .instr .convertYvyu := by decide
theorem test_decode_uyvy :
    decode .cmd 0b00000000000000000000000000001010#32 = .instr .convertUyvy := by decide
theorem test_decode_iuyv :
    decode .cmd 0b00000000000000000000000000001110#32 = .instr .convertIuyv := by decide
theorem test_decode_cyuv :
    decode .cmd 0b00000000000000000000000000010010#32 = .instr .convertCyuv := by decide
theorem test_decode_y211 :
    decode .cmd 0b00000000000000000000000000010110#32 = .instr .convertY211 := by decide

/-- 'I422' is the bytes 49 34 32 32, the first in bits 7:0 (R81, R84). -/
theorem test_decode_i422 :
    decode .srcTag 0b00110010_00110010_00110100_01001001#32 = .instr .srcI422 := by decide

/-- The bytes c3, c2, c1, c0 of the nine destination tags of R84. -/
theorem test_decode_dst_tags :
    [0x32#8 ++ 0x59#8 ++ 0x55#8 ++ 0x59#8, 0x56#8 ++ 0x4E#8 ++ 0x55#8 ++ 0x59#8,
     0x55#8 ++ 0x59#8 ++ 0x56#8 ++ 0x59#8, 0x59#8 ++ 0x56#8 ++ 0x59#8 ++ 0x55#8,
     0x56#8 ++ 0x4E#8 ++ 0x59#8 ++ 0x55#8, 0x32#8 ++ 0x32#8 ++ 0x34#8 ++ 0x59#8,
     0x56#8 ++ 0x59#8 ++ 0x55#8 ++ 0x49#8, 0x76#8 ++ 0x75#8 ++ 0x79#8 ++ 0x63#8,
     0x31#8 ++ 0x31#8 ++ 0x32#8 ++ 0x59#8].map (decode .dstTag) =
    [.instr .dstYuy2, .instr .dstYunv, .instr .dstYvyu, .instr .dstUyvy, .instr .dstUynv,
     .instr .dstY422, .instr .dstIuyv, .instr .dstCyuv, .instr .dstY211] := by decide

/-- Vectors E8 to E15: the illegal words, each rejected for its reason. -/
theorem test_illegal_words :
    [0x1A#32, 0x1E#32, 0x00#32, 0x03#32, 0x05#32, 0x22#32, 0x80000001#32, 0xFFFFFFFF#32].map
      (decode .cmd) =
    [.rejected .reservedKid, .rejected .noneKid, .rejected .reservedOp, .rejected .reservedOp,
     .rejected .selectKid, .rejected .reservedBits, .rejected .reservedBits,
     .rejected .reservedBits] := by decide

/-- The words of the opcode table are read from their 32 bits. -/
theorem test_decode_table_word :
    [0x00000001, 0x00000016, 0x32323449, 0x76757963, 0x0000001E].map (decodeTableWord 32) =
    [some .select, some .convertY211, some .srcI422, some .dstCyuv, none] := by decide

/-! ## Well-formedness: one term that each check refuses -/

theorem test_default_parameters_wf : Config.default.wf 1 = true := by decide

/-- No tag for IUYV. -/
theorem test_unnamed_layout_refused :
    ({ TagTable.default with dst := TagTable.default.dst.filter (fun e => decide (e.2 ≠ .iuyv)) } :
      TagTable).wf = false := by decide

/-- Six tags, one per layout: no layout has two. -/
theorem test_unaliased_table_refused :
    ({ TagTable.default with
       dst := [(1, .yuyv), (2, .yvyu), (3, .uyvy), (4, .iuyv), (5, .cyuv), (6, .y211)] } :
      TagTable).wf = false := by decide

/-- One tag for two layouts. -/
theorem test_ambiguous_table_refused :
    ({ TagTable.default with dst := (0x31313259#32, .cyuv) :: TagTable.default.dst } :
      TagTable).wf = false := by decide

theorem test_no_address_bits_refused :
    ({ Config.default with addrBits := 0 } : Config).wf 1 = false := by decide

theorem test_no_copy_refused : Config.default.wf 0 = false := by decide

/-- REG_MAP places no register of a second copy. -/
theorem test_unplaced_register_refused : Config.default.wf 2 = false := by decide

/-- REG_MAP gives one address to two registers. -/
theorem test_shared_bus_address_refused :
    ({ Config.default with regMap := (0, 0, .status) :: Config.defaultRegMap } : Config).wf 1 = false := by
  decide

/-! ## SELECT (vectors S1 to S19) -/

/-- Vectors S1 to S9 and S17, S18: the pairs that resolve. -/
theorem test_select_resolves :
    ([(0x32595559, 8, 2), (0x564E5559, 8, 2), (0x55595659, 8, 2), (0x59565955, 8, 2),
      (0x564E5955, 8, 2), (0x32323459, 8, 2), (0x76757963, 8, 2), (0x31313259, 8, 2),
      (0x32595559, 0, 0), (0x32595559, 4294967294, 2)] : List (Word × Word × Word)).map
      (fun v => selector .default 0x32323449#32 v.1 v.2.1 v.2.2) =
    [(.ok, some .yuyv), (.ok, some .yuyv), (.ok, some .yvyu), (.ok, some .uyvy), (.ok, some .uyvy),
     (.ok, some .uyvy), (.ok, some .cyuv), (.ok, some .y211), (.ok, some .yuyv),
     (.ok, some .yuyv)] := by decide

/-- Vectors S7 and S10 to S16, S19: the pairs that do not. -/
theorem test_select_rejects :
    ([(0x32323449, 0x56595549, 8, 2), (0x32323449, 0x56555943, 8, 2), (0x30323449, 0x32595559, 8, 2),
      (0x32323449, 0x32323449, 8, 2), (0x32323449, 0x32595559, 7, 2), (0x32323449, 0x32595559, 8, 3),
      (0x30323449, 0x32335652, 7, 3), (0x32323449, 0x56595549, 7, 2),
      (0x32323449, 0x32595559, 4294967295, 2)] : List (Word × Word × Word × Word)).map
      (fun v => (selector .default v.1 v.2.1 v.2.2.1 v.2.2.2).1.code.toNat) =
    [4, 3, 3, 3, 2, 2, 2, 2, 2] := by decide

/-! ## CONVERT (vectors K1 to K30) -/

/-- K9: YUYV on frame C. -/
theorem test_yuyv_frame_c : bytesAfter (perform 0 (pendingC .yuyv)) 64 8 =
    [1, 50, 2, 60, 11, 51, 12, 61] := by decide
/-- K10: YVYU on frame C. -/
theorem test_yvyu_frame_c : bytesAfter (perform 0 (pendingC .yvyu)) 64 8 =
    [1, 60, 2, 50, 11, 61, 12, 51] := by decide
/-- K11: UYVY on frame C. -/
theorem test_uyvy_frame_c : bytesAfter (perform 0 (pendingC .uyvy)) 64 8 =
    [50, 1, 60, 2, 51, 11, 61, 12] := by decide
/-- K12: CYUV on frame C. -/
theorem test_cyuv_frame_c : bytesAfter (perform 0 (pendingC .cyuv)) 64 8 =
    [51, 11, 61, 12, 50, 1, 60, 2] := by decide
/-- K13: Y211 on frame C; the row is two bytes and the padding stays. -/
theorem test_y211_frame_c : bytesAfter (perform 0 (pendingC .y211)) 64 8 =
    [11, 51, 0, 0, 1, 50, 0, 0] := by decide

/-- Frame B: 6 columns, 2 rows (luma 0 to 11, U 100 to 105, V 200 to 205). -/
def frameB : FrameDesc :=
  { width := 6, height := 2, yBase := 0, yStride := 6, uBase := 16, uStride := 3, vBase := 32,
    vStride := 3, dBase := 64, dStride := 6 }

def memB : Memory :=
  (List.range 11).map (fun i => (i + 1, BitVec.ofNat 8 (i + 1))) ++
  (List.range 6).map (fun i => (16 + i, BitVec.ofNat 8 (100 + i))) ++
  (List.range 6).map (fun i => (32 + i, BitVec.ofNat 8 (200 + i)))

/-- K8: Y211 on frame B; each row ends with a cut unit. -/
theorem test_y211_frame_b :
    bytesAfter (perform 0 (stateOf memB [{ devOf frameB with pending := some .y211 }])) 64 12 =
    [6, 103, 8, 203, 10, 105, 0, 100, 2, 200, 4, 102] := by decide

/-- K18: CONVERT.IUYV right after reset gives NOT_IMPLEMENTED. -/
theorem test_iuyv_after_reset :
    (nextOf (exec .convertIuyv State.reset)).map (fun t => (t.instances.map (·.status), t.refusal)) =
    some ([.notImplemented], none) := by decide

/-- SELECT right after reset is refused: its operands hold no value (R33). -/
theorem test_select_after_reset :
    (nextOf (exec .select State.reset)).map (·.refusal) = some (some .unwrittenOperand) := by decide

/-- K19, K20, K22: odd width, short stride, overlap. -/
theorem test_preconditions_refuse :
    [{ frameC with width := 1 }, { frameC with dStride := 3 }, { frameC with dBase := 0 }].map
      (fun f => f.legal .yuyv .default) = [false, false, false] := by decide

/-- K24, K25: 16 address bits, the destination at the top of memory. -/
theorem test_wrap_boundary :
    [0xFFF0, 0xFFE0].map (fun b =>
      FrameDesc.legal
        { width := 8, height := 2, yBase := 0, yStride := 8, uBase := 16, uStride := 4, vBase := 32
          vStride := 4, dBase := b, dStride := 16 }
        .yuyv { Config.default with addrBits := 16 }) = [false, true] := by decide

/-- K26: a CONVERT while BUSY is refused. -/
theorem test_convert_while_busy :
    (nextOf (exec .convertUyvy (pendingC .yuyv))).map (·.refusal) = some (some .writeWhileBusy) := by
  decide

/-! ## Tag rows and a step -/

/-- A tag row writes its word; a write while BUSY does not (R27, R36). -/
theorem test_tag_row :
    [idleC, pendingC .yuyv].map
      (fun s => (nextOf (exec .dstCyuv s)).map fun t => t.instances.map (·.dstTag)) =
    [some [some 0x76757963#32], some [some 0x32595559#32]] := by decide

/-- The step after `withFetchWord` runs the row of the word on copy 0. -/
theorem test_fetch_word_runs_row :
    [0x00000001, 0x0000000E, 0x00000016, 0x32323449, 0x56595549].map (fun w =>
      (nextOf (step (idleC.withFetchWord 32 w))).map fun t => (t.instances, t.refusal)) =
    [Instr.select, .convertIuyv, .convertY211, .srcI422, .dstIuyv].map (fun i =>
      (nextOf (exec i idleC)).map fun t => (t.instances, t.refusal)) := by decide

/-- A read of BUSY puts 1 in the temporary while a CONVERT is pending (R24). -/
theorem test_read_busy :
    (nextOf (readRegister 0 .busy 0 2 (pendingC .yuyv))).map (fun t => t.threads.map (·.temps)) =
    some [[0, 0, 1]] := by decide

/-! ## Witnesses: a state that meets the hypotheses of each statement -/

/-- A thread whose next line is `l`. -/
def hostState (l : HostLine) : State :=
  { idleC with threads := [{ prog := [l], line := 0, temps := [7] }], schedule := [.host 0] }

/-- What a statement about an idle addressed copy assumes. -/
theorem witness_idle : idleC.instances[idleC.target]? = some devC ∧ devC.busy = false := by decide

theorem witness_SelectCompletes : devC.selectOperands? =
    some { src := 0x32323449#32, dst := 0x32595559#32, width := 2#32, height := 2#32 } := by decide

/-- The operands of `devC` with other tags and another geometry. -/
def selDev (src dst w h : Word) : Instance :=
  { devC with srcTag := some src, dstTag := some dst, width := some w, height := some h }

/-- An odd width with an even height, and an even width with an odd height. -/
theorem witness_OddGeometryRejected :
    (selDev 0x30323449#32 0x32335652#32 7#32 2#32).selectOperands? = some ⟨0x30323449#32, 0x32335652#32, 7#32, 2#32⟩ ∧
    (7#32).getLsbD 0 = true ∧ (2#32).getLsbD 0 = false ∧ (3#32).getLsbD 0 = true := by decide

/-- A wrong source with a listed destination; the right source with an unlisted destination. -/
theorem witness_FormatPairRejected :
    (selDev 0x30323449#32 0x32595559#32 8#32 2#32).selectOperands? = some ⟨0x30323449#32, 0x32595559#32, 8#32, 2#32⟩ ∧
    (8#32).getLsbD 0 = false ∧ 0x30323449#32 ≠ Config.default.tagTable.src422 ∧
    ∀ l, (0x56555943#32, l) ∉ Config.default.tagTable.dst :=
  ⟨by decide, by decide, by decide, fun l => by cases l <;> decide⟩

theorem witness_MuxResolves :
    devC.selectOperands? = some ⟨0x32323449#32, 0x32595559#32, 2#32, 2#32⟩ ∧
    (2#32).getLsbD 0 = false ∧ idleC.cfg.tagTable.unambiguous = true ∧
    0x32323449#32 = idleC.cfg.tagTable.src422 ∧
    (0x32595559#32, Layout.yuyv) ∈ idleC.cfg.tagTable.dst ∧ Layout.yuyv ≠ .iuyv := by decide

/-- Both settings of SELECT_REJECTS_IUYV. -/
theorem witness_IuyvAtSelect :
    (selDev 0x32323449#32 0x56595549#32 8#32 2#32).selectOperands? = some ⟨0x32323449#32, 0x56595549#32, 8#32, 2#32⟩ ∧
    (0x56595549#32, Layout.iuyv) ∈ Config.default.tagTable.dst ∧
    Config.default.selectRejectsIuyv = true ∧
    ({ Config.default with selectRejectsIuyv := false } : Config).selectRejectsIuyv = false := by decide

theorem witness_AliasesAgree : Config.default.tagTable.unambiguous = true ∧
    (0x32595559#32, Layout.yuyv) ∈ Config.default.tagTable.dst ∧
    (0x564E5559#32, Layout.yuyv) ∈ Config.default.tagTable.dst := by decide

theorem witness_SelectIdempotent : ∃ t, exec .select idleC = .next t ∧ t.refusal = none := ⟨_, rfl, rfl⟩

/-- The operands of the conversions are legal for every kernel, and nothing conflicts. -/
theorem witness_Convert : Memory.wf idleC.mem ∧ devC.frame? = some frameC ∧
    (∀ p ∈ [Packer.yuyv, .yvyu, .uyvy, .cyuv, .y211], frameC.legal p idleC.cfg = true ∧
      conflictsWith idleC idleC.target (p, frameC) = false) := by decide

/-- The last byte of the last destination row and the last V sample of frame C; the next ones are out. -/
theorem witness_OperandsAndAddresses : devC.selectOperands? ≠ none ∧ devC.frame? ≠ none ∧
    (frameC.writeSet .yuyv).contains (64 + 1 * 4 + 3) = true ∧
    (frameC.writeSet .yuyv).contains (64 + 1 * 4 + 4) = false ∧
    frameC.inFootprint (32 + 1 * 1 + 0) = true ∧ frameC.inFootprint (32 + 1 * 1 + 1) = false := by decide

/-- Rows 0 and 1 of two, unit 0 of one: the ends of the ranges the conversions speak of. -/
theorem witness_Convert_ranges : 0 < frameC.height ∧ 1 < frameC.height ∧ 0 < frameC.width / 2 ∧
    4 * 0 + 1 < frameC.width ∧ 4 * 0 + 3 < frameB.width ∧ 4 * 1 + 1 < frameB.width := by decide

theorem witness_RoundTrip : ∃ u, Converts .cyuv idleC devC frameC u :=
  ⟨_, rfl, rfl, rfl, fun a h => read_packFrame_other memC .cyuv frameC a h⟩

/-- Luma column 1 and chroma column 0 of a full-resolution kernel; of Y211 luma column 4, chroma-U
column 2 (the cut unit of frame B) and chroma-V column 0. -/
theorem witness_RoundTrip_ranges : 1 < frameC.width ∧ 0 < frameC.width / 2 ∧
    4 < frameB.width ∧ 4 % 2 = 0 ∧ 2 < frameB.width / 2 ∧ 2 * 0 + 3 < frameB.width := by decide

theorem witness_ScanDirection : (0 : Nat) < 2 ∧ Packer.sourceRow .cyuv 2 0 = 1 := by decide

/-- The last byte of the last row. -/
theorem witness_BytesStayInFrame : frameB.width % 2 = 0 ∧ 5 < Packer.rowBytes .y211 frameB.width ∧
    11 < Packer.rowBytes .yuyv frameB.width ∧ 1 < frameB.height := by decide

theorem witness_WriteSetSize :
    frameC.shapeOk .yuyv = true ∧ frameC.shapeOk .y211 = true ∧ frameC.shapeOk .cyuv = true := by decide

/-- Two different copies of the block, in two machines, with one conversion. -/
theorem witness_ConversionIsPure :
    (pendingC .uyvy).instances[0]? = some (busyC .uyvy) ∧
    (busyC .uyvy).conversion? = some (.uyvy, frameC) ∧
    (stateOf memC [devC, busyC .uyvy]).instances[1]? = some (busyC .uyvy) ∧
    conflictsWith (pendingC .uyvy) 0 (.uyvy, frameC) = false ∧
    conflictsWith (stateOf memC [devC, busyC .uyvy]) 1 (.uyvy, frameC) = false ∧
    (∃ t, perform 0 (pendingC .uyvy) = .next t) ∧
    (frameC.writeSet .uyvy).contains 64 = true :=
  ⟨by decide, by decide, by decide, by decide, by decide, ⟨_, rfl⟩, by decide⟩

/-- A frame with no column. -/
theorem witness_EmptyFrameWritesNothing :
    ({ devOf { frameC with width := 0 } with pending := some .y211 } : Instance).conversion? =
      some (.y211, { frameC with width := 0 }) ∧
    conflictsWith (stateOf memC [{ devOf { frameC with width := 0 } with pending := some .y211 }]) 0
      (.y211, { frameC with width := 0 }) = false := by decide

theorem witness_BusyRefusesWrites : (pendingC .yuyv).instances[(pendingC .yuyv).target]? =
      some (busyC .yuyv) ∧ (busyC .yuyv).busy = true ∧ isOperandReg .dStride = true ∧
    (busyC .yuyv).readReg .status = some 0 := by decide

/-- After reset every operand register is unwritten; in the second copy one is. -/
theorem witness_UnwrittenOperandRefused :
    Instance.reset.busy = false ∧ Instance.reset.readReg .srcTag = none ∧
    Instance.reset.readReg .width = none ∧
    ({ devC with vStride := none } : Instance).readReg .vStride = none := by decide

theorem witness_PreconditionRefused :
    (devOf { frameC with dStride := 3 }).frame? = some { frameC with dStride := 3 } ∧
    FrameDesc.legal { frameC with dStride := 3 } .yuyv Config.default = false := by decide

/-- Copy 0 writes where copy 1 writes, writes where copy 1 reads, and reads where copy 1 writes (luma,
address 2). -/
theorem witness_ConflictingPerformRefused :
    (stateOf memC [busyC .yuyv, busyC .cyuv]).instances[1]? = some (busyC .cyuv) ∧
    (busyC .cyuv).conversion? = some (.cyuv, frameC) ∧
    (frameC.writeSet .yuyv).contains 64 = true ∧ (frameC.writeSet .cyuv).contains 64 = true ∧
    (FrameDesc.writeSet { frameC with dBase := 2 } .yuyv).contains 2 = true ∧
    frameC.inFootprint 2 = true ∧
    ({ devOf { frameC with dBase := 2 } with pending := some .yuyv } : Instance).conversion? =
      some (.yuyv, { frameC with dBase := 2 }) := by decide

theorem witness_StoreToBufferRefused : (frameC.writeSet .yuyv).contains 71 = true ∧
    frameC.inFootprint 33 = true ∧ 71 < 2 ^ Config.default.addrBits ∧
    Config.default.ordinary 71 = true := by decide

/-- A marked run whose next move is reset, and one whose next move is a packer's: it goes on. -/
theorem witness_RefusalMarkIsKept :
    ((idleC.mark .writeWhileBusy).refusal = some .writeWhileBusy) ∧
    (∃ t, step { idleC.mark .writeWhileBusy with schedule := [.reset] } = .next t) ∧
    ∃ t, step ((pendingC .yuyv).mark .writeWhileBusy) = .next t ∧ t.pendingCount = 0 :=
  ⟨by decide, ⟨_, rfl⟩, ⟨_, rfl, by decide⟩⟩

theorem witness_IllegalCommandReported : BitVec.ofNat 32 0x1E ∉ [0x00000001#32, 0x00000002#32,
    0x00000006#32, 0x0000000A#32, 0x0000000E#32, 0x00000012#32, 0x00000016#32] := by decide

/-- A 32-bit register and one of ADDR_BITS bits; the latter keeps the low bits of 2^32 + 5. -/
theorem witness_OperandWriteReadsBack :
    (devC.writeReg .default .dstTag 4294967301).readReg .dstTag = some 5 ∧
    (devC.writeReg .default .dBase 4294967301).readReg .dBase = some 5 := by decide

/-- STATUS and the last operand register of an idle copy; a thread with one temporary. -/
theorem witness_ResultRegisterReads :
    (hostState .stop).threads[0]? = some { prog := [.stop], line := 0, temps := [7] } ∧
    idleC.instances[0]? = some devC ∧
    devC.readReg .status = some 0 ∧ devC.readReg .dStride = some 4 := by decide

theorem witness_ReadOnlyWritesIgnored : RegName.kernel ∈ [RegName.status, .busy, .kernel] := by decide

theorem witness_RowFrame : ∃ t, exec .convertY211 idleC = .next t ∧ t.refusal = none := ⟨_, rfl, rfl⟩

/-- A conversion changes the byte at 64, from 0 to 1. -/
theorem witness_MemoryChangesOnlyByRule :
    ∃ t, runMove (.packer 0) (pendingC .yuyv) = .next t ∧
      Memory.read t.mem 64 ≠ Memory.read (pendingC .yuyv).mem 64 := ⟨_, rfl, by decide⟩

/-- SELECT changes STATUS and KERNEL; a write changes an operand register; a CONVERT word and the perform
step change BUSY. -/
theorem witness_RegistersChangeOnlyByRule :
    (nextOf (runMove (.host 0) (hostState (.select 0)))).map
      (fun t => t.instances.map fun e => (e.status, e.kernel)) = some [(.ok, some .yuyv)] ∧
    (nextOf (runMove (.host 0) (hostState (.wr 0 .width (.imm 4))))).map
      (fun t => t.instances.map (·.width)) = some [some 4#32] ∧
    (nextOf (runMove (.host 0) (hostState (.convert 0 .y211)))).map
      (fun t => t.instances.map (·.pending)) = some [some .y211] ∧
    (nextOf (runMove (.packer 0) (pendingC .y211))).map
      (fun t => t.instances.map fun e => (e.pending, e.status)) = some [(none, .ok)] := by decide

/-- A host write to copy 1 and a perform step of copy 0, of two. -/
theorem witness_CopiesShareNothing :
    (∃ t, runMove (.host 0) { hostState (.wr 1 .width (.imm 4)) with instances := [devC, devC] } =
      .next t ∧ 0 ≠ t.target) ∧
    ∃ t, runMove (.packer 0) (stateOf memC [busyC .yuyv, devC]) = .next t :=
  ⟨⟨_, rfl, by decide⟩, ⟨_, rfl⟩⟩

theorem witness_ParametersAreFixed : ∃ t, step (pendingC .yvyu) = .next t := ⟨_, rfl⟩

theorem witness_HostStoreThenLoad : Memory.wf (pendingC .yuyv).mem ∧ 72 < 2 ^ Config.default.addrBits ∧
    Config.default.ordinary 72 = true ∧ inPendingWriteSet (pendingC .yuyv) 72 = false ∧
    inPendingFootprint (pendingC .yuyv) 72 = false := by decide

/-- 33 lies in the pending CONVERT's read footprint, 72 in neither buffer. -/
theorem witness_PlainLoadReadsMemory : inPendingWriteSet (pendingC .yuyv) 72 = false ∧
    frameC.inFootprint 33 = true ∧ frameC.legal .yuyv Config.default = true ∧
    conflictsWith (pendingC .yuyv) 0 (.yuyv, frameC) = false := by decide

theorem witness_LoadFromPendingIsDraw : (pendingC .yuyv).instances[0]? = some (busyC .yuyv) ∧
    (busyC .yuyv).conversion? = some (.yuyv, frameC) ∧
    (frameC.writeSet .yuyv).contains 71 = true := by decide

/-- A reset while a CONVERT is pending: 64 and 71 are in its write set, 72 is not. -/
theorem witness_ResetAbandonsConversions :
    ({ pendingC .yuyv with schedule := [.reset] } : State).schedule = [.reset] ∧
    inPendingWriteSet (pendingC .yuyv) 64 = true ∧ inPendingWriteSet (pendingC .yuyv) 71 = true ∧
    inPendingWriteSet (pendingC .yuyv) 72 = false := by decide

theorem witness_NoneKernelIsIllegal :
    (hostState (.convertKid 0 0)).threads[0]? =
      some { prog := [.convertKid 0 0], line := 0, temps := [7] } := by decide

theorem witness_StepRunsDecodedRow : (hostState (.cmd 0 (.imm 0x12))).schedule = [.host 0] ∧
    lineAction Config.default { prog := [.cmd 0 (.imm 0x12)], line := 0, temps := [7] }
      (.cmd 0 (.imm 0x12)) = .write 0 .cmd 0x12 ∧ portOf .cmd = some .cmd ∧
    decode .cmd (BitVec.ofNat 32 0x12) = .instr .convertCyuv := by decide

/-- One line of each action: write, read, store, load, wait, jump, stop, and a bus access that REG_MAP does
not place. -/
theorem witness_StepDoesTheMove_host : (hostState .stop).schedule = [.host 0] ∧
    ([.wr 0 .dStride (.imm 4), .rd 0 .dStride 1, .memStore (.imm 72) (.imm 9), .memLoad (.imm 3) 1,
      .wait 0, .goto 3, .stop, .busRd (.imm 1) 0] : List HostLine).map
      (lineAction Config.default { prog := [], line := 0, temps := [7] }) =
    [.write 0 .dStride 4, .read 0 .dStride 1, .store 72 9, .load 3 1, .wait 0, .jump 3, .halt,
      .unmapped] := by decide

/-- Copy 1 of two is the first busy one; a thread after one that has ended is the first live one. -/
theorem witness_StepDoesTheMove :
    (stateOf memC [devC, busyC .yuyv]).schedule = [] ∧ (busyC .yuyv).busy = true ∧ devC.busy = false ∧
    devC.pending = none ∧ (hostState (.goto 0)).instances.all (fun d => !d.busy) = true ∧
    (nextOf (step { hostState (.goto 7) with schedule := [], threads := [
      { prog := [.stop], line := 0, temps := [] }, { prog := [.goto 7], line := 0, temps := [] }] })).map
      (fun t => t.threads.map (·.line)) = some [0, 7] := by decide

/-- A store and a load by a step of a thread (R94): the byte lands, and byte 3 of frame C is 12. -/
theorem test_step_store_load :
    (nextOf (step (hostState (.memStore (.imm 72) (.imm 9))))).map
      (fun t => ((Memory.read t.mem 72).toNat, t.threads.map (·.line))) = some (9, [1]) ∧
    (nextOf (step (hostState (.memLoad (.imm 3) 1)))).map
      (fun t => t.threads.map fun th => (th.temps, th.line)) = some [([7, 12], 1)] := by decide

/-- The invariant holds with a legal conversion of frame C pending, whatever the threads do. -/
theorem pending_inv (p : Packer) (ts : List HostThread) : { pendingC p with threads := ts }.Inv := by
  have hl : frameC.legal p .default = true := by cases p <;> decide
  refine ⟨(by decide : Config.default.wf 1 = true), (by decide : Memory.wf memC),
    (by decide : ∀ c ∈ memC, c.1 < 2 ^ 32), (by decide : 0 < 1), fun d hd v hv => ?_,
    fun d hd q hq => ?_⟩
  · rw [List.mem_singleton.mp hd] at hv
    simp only [busyC, devC, devOf, frameC, Option.some.injEq] at hv
    show v < 2 ^ 32
    omega
  · rw [List.mem_singleton.mp hd] at hq ⊢
    cases hq
    exact ⟨frameC, rfl, hl⟩

/-- The invariant holds with a conversion pending, and that state has a next one. -/
theorem witness_StepKeepsInv : (pendingC .cyuv).Inv ∧ ∃ t, step (pendingC .cyuv) = .next t :=
  ⟨pending_inv .cyuv _, _, rfl⟩

/-- One conversion pending, in conflict with no other. -/
theorem witness_PendingConversionsComplete : (pendingC .y211).Inv ∧ (pendingC .y211).clean ∧
    (pendingC .y211).schedule = [] ∧ (pendingC .y211).pendingCount = 1 ∧
    conflictsWith (pendingC .y211) 0 (.y211, frameC) = false :=
  ⟨pending_inv .y211 _, by decide, by decide, by decide, by decide⟩

/-- A thread that writes WIDTH, and one that stores at address 64, while copy 0 is BUSY. -/
theorem witness_MarkSetOnlyByRefusedAction :
    { pendingC .yuyv with threads := [{ prog := [.memStore (.imm 64) (.imm 1)], line := 0, temps := [] }] }.Inv ∧
    [HostLine.wr 0 .width (.imm 4), .memStore (.imm 64) (.imm 1)].map (fun l =>
      (nextOf (runMove (.host 0)
        { pendingC .yuyv with threads := [{ prog := [l], line := 0, temps := [] }] })).map (·.refusal)) =
      [some (some .writeWhileBusy), some (some .bufferWriteWhileBusy)] :=
  ⟨pending_inv .yuyv _, by decide⟩

/-- Just after reset: a read of an unwritten register, SELECT and CONVERT; and a CONVERT whose
destination rows are too short. -/
theorem witness_MarkSetOnlyByRefusedAction_idle :
    [(Instance.reset, HostLine.rd 0 .dStride 0), (Instance.reset, .select 0),
      (Instance.reset, .convert 0 .y211), (devOf { frameC with dStride := 3 }, .convert 0 .yuyv)].map
      (fun x => (nextOf (runMove (.host 0) { stateOf memC [x.1] with
        threads := [{ prog := [x.2], line := 0, temps := [] }] })).map (·.refusal)) =
    [some (some .unwrittenOperand), some (some .unwrittenOperand), some (some .unwrittenOperand),
      some (some .convertPrecondition)] := by decide

theorem witness_FinalStateStays : State.reset.schedule = [] ∧ State.reset.final = true := by decide

/-- A faulting step. -/
theorem witness_BlockNeverStops : ∃ q, step (hostState (.select 9)) = .fault q := ⟨_, rfl⟩

/-- `if t0 != 7` (not taken: t0 is 7), `if t0 != 8` (taken), `goto 3`, `stop`, and `wait` on an idle and
on a busy copy. -/
theorem witness_HostControlFlow :
    ([.ifNe 0 (.imm 7) 5, .ifNe 0 (.imm 8) 5, .goto 3, .stop, .wait 0] : List HostLine).map (fun l =>
      (nextOf (runThread 0 (hostState l))).map fun t => t.threads.map (·.line)) =
      [some [1], some [5], some [3], some [0], some [1]] ∧
    (nextOf (runThread 0 { hostState (.wait 0) with instances := [busyC .yuyv] })).map
      (fun t => t.threads.map (·.line)) = some [0] := by decide

/-- A temporary that holds a value. -/
theorem witness_HostLinesAct :
    ({ prog := [], line := 0, temps := [7] } : HostThread).temps[0]? = some 7 := by decide

theorem witness_BusAccessFollowsRegMap : (Config.default.regMap.map (·.1)).Nodup ∧
    (60, 0, RegName.dStride) ∈ Config.default.regMap ∧
    ({ prog := [], line := 0, temps := [60] } : HostThread).temps[0]? = some 60 := by decide

theorem witness_MemoryIsCanonical : Memory.wf memC ∧ Memory.wf (Memory.write memC 64 0#8) := by decide

end Sys2Proof.Tests
end

section
/-! What a move can do to the state, said once: a short list of elementary updates, of which every step is
a chain. A property that every update keeps, every step keeps. -/

namespace Sys2Proof.Machine

/-- How a host access that is not refused changes the addressed copy `d`, which is idle: STATUS and
KERNEL take results (R91, R118, R143), an operand register takes a value (R34), or a CONVERT whose
preconditions hold is pending (R135). -/
inductive CopyUpdate (c : Config) (d : Instance) : Instance → Prop
  | results (code : StatusCode) (kernel : Option Layout) :
      CopyUpdate c d { d with status := code, kernel := kernel }
  | operand (r : RegName) (v : Nat) : CopyUpdate c d (d.writeReg c r v)
  | issued {p : Packer} {f : FrameDesc} (hf : d.frame? = some f) (hl : f.legal p c = true) :
      CopyUpdate c d { d with pending := some p }

/-- The elementary updates that the moves of all agents are made of. -/
inductive Update (s : State) : State → Prop
  | agents (threads : List HostThread) (schedule : List Move) (drawn : Nat) :
      Update s { s with threads := threads, schedule := schedule, drawn := drawn }
  | aim {k : Nat} {d : Instance} (hd : s.instances[k]? = some d) : Update s (s.aim k)
  | mark (r : RefusalReason) : Update s (s.mark r)
  | copy {d e : Instance} (hd : s.instances[s.target]? = some d) (hb : d.busy = false)
      (he : CopyUpdate s.cfg d e) : Update s (s.setTarget e)
  | store {a : Nat} (b : Byte) (ha : a < 2 ^ s.cfg.addrBits) :
      Update s { s with mem := Memory.write s.mem a b }
  | perform {k : Nat} {d : Instance} {p : Packer} {f : FrameDesc} (hd : s.instances[k]? = some d)
      (hp : d.pending = some p) (hf : d.frame? = some f) :
      Update s { s with
        mem := packFrame s.mem p f
        instances := s.instances.set k { d with status := .ok, pending := none } }
  | reset : Update s (resetBlock s)

/-- A chain of elementary updates. -/
abbrev Updates : State → State → Prop := Relation.ReflTransGen Update

/-- A register access to the addressed copy: the copy exists, and one update follows. -/
def Access (s t : State) : Prop := (∃ d, s.instances[s.target]? = some d) ∧ Update s t

theorem Access.updates {k : Nat} {s t : State} (h : Access (s.aim k) t) : Updates s t := by
  obtain ⟨⟨d, hd⟩, h⟩ := h
  exact .head (.aim hd) (.single h)

/-! ### Register accesses of the host -/

theorem writeOperandReg_access {r : RegName} {v : Nat} {s t : State}
    (h : writeOperandReg r v s = .next t) : Access s t := by
  obtain ⟨d, hd, ⟨-, rfl⟩ | ⟨hb, rfl⟩⟩ := writeOperandReg_next h
  · exact ⟨⟨d, hd⟩, .mark _⟩
  · exact ⟨⟨d, hd⟩, .copy hd hb (.operand r v)⟩

theorem report_access {c : StatusCode} {s t : State}
    (h : (s.onTarget fun d => if d.busy then s.refuse .writeWhileBusy else s.report d c) = .next t) :
    Access s t := by
  obtain ⟨d, hd, ⟨-, rfl⟩ | ⟨hb, rfl⟩⟩ := report_next h
  · exact ⟨⟨d, hd⟩, .mark _⟩
  · exact ⟨⟨d, hd⟩, .copy hd hb (.results c d.kernel)⟩

theorem issueConvert_access {p : Packer} {s t : State} (h : issueConvert p s = .next t) :
    Access s t := by
  obtain ⟨d, hd, ⟨-, rfl⟩ | ⟨-, -, rfl⟩ | ⟨f, -, -, -, rfl⟩ | ⟨f, hb, hf, hl, rfl⟩⟩ :=
    issueConvert_next h
  · exact ⟨⟨d, hd⟩, .mark _⟩
  · exact ⟨⟨d, hd⟩, .mark _⟩
  · exact ⟨⟨d, hd⟩, .mark _⟩
  · exact ⟨⟨d, hd⟩, .copy hd hb (.issued hf hl)⟩

theorem execSelect_access {s t : State} (h : execSelect s = .next t) : Access s t := by
  obtain ⟨d, hd, ⟨-, rfl⟩ | ⟨-, -, rfl⟩ | ⟨o, hb, -, rfl⟩⟩ := execSelect_next h
  · exact ⟨⟨d, hd⟩, .mark _⟩
  · exact ⟨⟨d, hd⟩, .mark _⟩
  · exact ⟨⟨d, hd⟩, .copy hd hb (.results _ _)⟩

theorem exec_access {i : Instr} {s t : State} (h : exec i s = .next t) : Access s t := by
  cases i with
  | select => exact execSelect_access h
  | convertYuyv | convertYvyu | convertUyvy | convertCyuv | convertY211 =>
    exact issueConvert_access h
  | convertIuyv => exact report_access h
  | srcI422 | dstYuy2 | dstYunv | dstYvyu | dstUyvy | dstUynv | dstY422 | dstIuyv | dstCyuv
  | dstY211 => exact writeOperandReg_access h

theorem deliver_updates {k : Nat} {p : Port} {w : Word} {s t : State}
    (h : deliver k p w s = .next t) : Updates s t := by
  rcases deliver_next h with ⟨i, -, h⟩ | ⟨e, -, ⟨-, h⟩ | ⟨-, h⟩ | ⟨-, h⟩⟩
  · exact (exec_access h).updates
  · exact (report_access h).updates
  · exact (writeOperandReg_access h).updates
  · exact (writeOperandReg_access h).updates

/-- `writeRegister_next` forgets, for a read-only register, that the copy exists; it is needed here. -/
theorem writeRegister_updates {k : Nat} {r : RegName} {v : Nat} {s t : State}
    (h : writeRegister k r v s = .next t) : Updates s t := by
  unfold writeRegister at h
  split at h
  · exact deliver_updates h
  · split at h
    · exact (writeOperandReg_access h).updates
    · obtain ⟨d, hd, h⟩ := State.onTarget_next h
      cases h
      exact .single (.aim hd)

/-! ### The other actions of a host thread -/

theorem Update.updThread (s : State) (t : Nat) (f : HostThread → HostThread) :
    Update s (s.updThread t f) := .agents _ _ _

theorem readRegister_updates {k : Nat} {r : RegName} {t x : Nat} {s s' : State}
    (h : readRegister k r t x s = .next s') : Updates s s' := by
  obtain ⟨d, hd, ⟨v, -, rfl⟩ | ⟨-, rfl⟩⟩ := readRegister_next h
  · exact .head (.aim hd) (.single (.updThread _ _ _))
  · exact .head (.aim hd) (.single (.mark _))

theorem waitIdle_updates {k t : Nat} {s s' : State} (h : waitIdle k t s = .next s') :
    Updates s s' := by
  obtain ⟨d, hd, ⟨-, rfl⟩ | ⟨-, rfl⟩⟩ := waitIdle_next h
  · exact .single (.aim hd)
  · exact .head (.aim hd) (.single (.updThread _ _ _))

theorem hostStore_update {a v : Nat} {s t : State} (h : hostStore a v s = .next t) :
    Update s t := by
  obtain ⟨ha, -, ⟨-, rfl⟩ | ⟨-, rfl⟩⟩ := hostStore_next h
  · exact .mark _
  · exact .store _ ha

theorem hostLoad_update {a t x : Nat} {s s' : State} (h : hostLoad a t x s = .next s') :
    Update s s' := by
  obtain ⟨-, -, ⟨-, rfl⟩ | ⟨-, rfl⟩⟩ := hostLoad_next h
  · exact .agents _ _ _
  · exact .updThread _ _ _

theorem runAction_updates {t : Nat} {a : Action} {s s' : State}
    (h : runAction t a s = .next s') : Updates s s' := by
  have advance : Update s (s.advance t) := .updThread _ _ _
  cases a with
  | write k r v => exact .head advance (writeRegister_updates h)
  | read k r x => exact .head advance (readRegister_updates h)
  | wait k => exact waitIdle_updates h
  | jump l => cases h; exact .single (.updThread _ _ _)
  | store a v => exact .head advance (.single (hostStore_update h))
  | load a x => exact .head advance (.single (hostLoad_update h))
  | halt => cases h; exact .refl
  | unmapped => cases h

/-! ### Moves and steps -/

theorem perform_updates {k : Nat} {s t : State} (h : perform k s = .next t) : Updates s t := by
  obtain rfl | rfl | rfl | ⟨d, p, f, hd, hp, hf, -, rfl⟩ := perform_next h
  · exact .refl
  · exact .single (.mark _)
  · exact .single (.mark _)
  · exact .single (.perform hd hp hf)

theorem runMove_updates {m : Move} {s t : State} (h : runMove m s = .next t) : Updates s t := by
  cases m with
  | host th =>
    obtain ⟨-, rfl⟩ | ⟨a, -, h⟩ := runThread_next h
    · exact .refl
    · exact runAction_updates h
  | packer k => exact perform_updates h
  | reset => cases h; exact .single .reset
  | idle => cases h; exact .refl

theorem step_updates {s t : State} (h : step s = .next t) : Updates s t := by
  have scheduled : Update s (nextMove s).2 := by
    rw [nextMove_state]
    exact .agents _ _ _
  exact .head scheduled (runMove_updates h)

theorem Updates.keeps (P : State → Prop) (hP : ∀ {u v}, Update u v → P u → P v) {s t : State}
    (h : Updates s t) (hs : P s) : P t := by
  induction h with
  | refl => exact hs
  | tail _ huv ih => exact hP huv ih

/-- What every elementary update keeps, every step keeps. -/
theorem step_keeps (P : State → Prop) (hP : ∀ {u v}, Update u v → P u → P v) {s t : State}
    (h : step s = .next t) (hs : P s) : P t := Updates.keeps P hP (step_updates h) hs

end Sys2Proof.Machine
end

section
/-! The invariant of the machine, update by update. -/

namespace Sys2Proof.Machine

/-! ### One copy of the block -/

/-- The bound on the registers of ADDR_BITS bits, register by register. -/
theorem Instance.addrsInRange_iff (d : Instance) (bits : Nat) :
    d.addrsInRange bits ↔
      (∀ v ∈ d.yBase, v < 2 ^ bits) ∧ (∀ v ∈ d.yStride, v < 2 ^ bits) ∧
      (∀ v ∈ d.uBase, v < 2 ^ bits) ∧ (∀ v ∈ d.uStride, v < 2 ^ bits) ∧
      (∀ v ∈ d.vBase, v < 2 ^ bits) ∧ (∀ v ∈ d.vStride, v < 2 ^ bits) ∧
      (∀ v ∈ d.dBase, v < 2 ^ bits) ∧ (∀ v ∈ d.dStride, v < 2 ^ bits) := by
  simp only [Instance.addrsInRange, or_imp, forall_and, Option.mem_def]

/-- A register of ADDR_BITS bits takes a value reduced to that many bits (R34; log 5). -/
theorem Instance.addrsInRange_writeReg {d : Instance} {c : Config} (r : RegName) (v : Nat)
    (h : d.addrsInRange c.addrBits) : (d.writeReg c r v).addrsInRange c.addrBits := by
  have hv : v % 2 ^ c.addrBits < 2 ^ c.addrBits := Nat.mod_lt _ (Nat.two_pow_pos _)
  cases r with
  | cmd | status | busy | kernel | srcTag | dstTag | width | height => exact h
  | yBase | yStride | uBase | uStride | vBase | vStride | dBase | dStride =>
    simp_all [Instance.addrsInRange_iff, Instance.writeReg]

theorem Instance.pendingLegal_of_pending_none {d : Instance} (c : Config) (h : d.pending = none) :
    d.pendingLegal c := by
  intro p hp
  simp [h] at hp

theorem Instance.addrsInRange_reset (bits : Nat) : Instance.reset.addrsInRange bits := by
  simp [Instance.addrsInRange_iff, Instance.reset]

theorem CopyUpdate.addrsInRange {c : Config} {d e : Instance} (h : CopyUpdate c d e)
    (hd : d.addrsInRange c.addrBits) : e.addrsInRange c.addrBits := by
  cases h with
  | results | issued => exact hd
  | operand r v => exact Instance.addrsInRange_writeReg r v hd

/-- On an idle copy only the issue of a CONVERT leaves one pending, and it is legal. -/
theorem CopyUpdate.pendingLegal {c : Config} {d e : Instance} (h : CopyUpdate c d e)
    (hb : d.busy = false) : e.pendingLegal c := by
  have hn : d.pending = none := d.busy_eq_false_iff.mp hb
  cases h with
  | results => exact Instance.pendingLegal_of_pending_none c hn
  | operand r v => exact Instance.pendingLegal_of_pending_none c (by simpa using hn)
  | issued hf hl =>
    intro p hp
    cases hp
    exact ⟨_, hf, hl⟩

/-! ### Memory and write sets -/

theorem FrameDesc.writeSet_fits_of_legal {f : FrameDesc} {p : Packer} {c : Config}
    (h : f.legal p c = true) : (f.writeSet p).fits c.addrBits = true := by
  simp only [FrameDesc.legal, FrameDesc.noWrap, Bool.and_eq_true] at h
  tauto

theorem Instance.conversion?_eq_some (d : Instance) (p : Packer) (f : FrameDesc) :
    d.conversion? = some (p, f) ↔ d.pending = some p ∧ d.frame? = some f := by
  unfold Instance.conversion?
  cases d.pending <;> cases d.frame? <;> simp

theorem mem_pendingAddrs {s : State} {a : Nat} :
    a ∈ pendingAddrs s ↔ ∃ d ∈ s.instances, ∃ p f, d.pending = some p ∧ d.frame? = some f ∧
      (f.writeSet p).contains a = true := by
  rw [pendingAddrs, List.mem_flatMap]
  refine exists_congr fun d => and_congr_right fun _ => ?_
  cases hc : d.conversion? with
  | none =>
    refine iff_of_false (by simp) ?_
    rintro ⟨p, f, hp, hf, -⟩
    rw [(d.conversion?_eq_some p f).mpr ⟨hp, hf⟩] at hc
    cases hc
  | some x =>
    obtain ⟨p, f⟩ := x
    obtain ⟨hp, hf⟩ := (d.conversion?_eq_some p f).mp hc
    simp [hp, hf, Region.mem_addrs_iff]

/-- A pending CONVERT writes inside the address space (R56). -/
theorem State.Inv.writeSet_lt {s : State} (h : s.Inv) {d : Instance} {p : Packer} {f : FrameDesc}
    {a : Nat} (hd : d ∈ s.instances) (hp : d.pending = some p) (hf : d.frame? = some f)
    (ha : (f.writeSet p).contains a = true) : a < 2 ^ s.cfg.addrBits := by
  obtain ⟨g, hg, hl⟩ := h.pendingLegal d hd p hp
  obtain rfl : f = g := Option.some.inj (hf.symm.trans hg)
  exact Region.lt_of_contains_of_fits _ _ a (FrameDesc.writeSet_fits_of_legal hl) ha

/-! ### The state -/

/-- The threads, the schedule, the draws and the mark are not in the invariant. -/
theorem State.Inv.of_same {s t : State} (h : s.Inv) (hc : t.cfg = s.cfg)
    (hi : t.instances = s.instances) (hm : t.mem = s.mem) (ht : t.target = s.target) : t.Inv := by
  obtain ⟨h1, h2, h3, h4, h5, h6⟩ := h
  constructor <;> simp only [hc, hi, hm, ht] <;> assumption

theorem State.Inv.aim {s : State} (h : s.Inv) {k : Nat} {d : Instance}
    (hd : s.instances[k]? = some d) : (s.aim k).Inv :=
  { h with targetExists := (List.getElem?_eq_some_iff.mp hd).1 }

theorem State.Inv.withMem {s : State} (h : s.Inv) {m : Memory} (hw : Memory.wf m)
    (hr : ∀ c ∈ m, c.1 < 2 ^ s.cfg.addrBits) : { s with mem := m }.Inv :=
  { h with memCanonical := hw, memInRange := hr }

theorem State.Inv.setCopy {s : State} (h : s.Inv) (k : Nat) {e : Instance}
    (ha : e.addrsInRange s.cfg.addrBits) (hp : e.pendingLegal s.cfg) :
    { s with instances := s.instances.set k e }.Inv where
  parametersOk := by simpa using h.parametersOk
  memCanonical := h.memCanonical
  memInRange := h.memInRange
  targetExists := by simpa using h.targetExists
  addrsInRange x hx := by
    rcases List.mem_or_eq_of_mem_set hx with hx | rfl
    · exact h.addrsInRange x hx
    · exact ha
  pendingLegal x hx := by
    rcases List.mem_or_eq_of_mem_set hx with hx | rfl
    · exact h.pendingLegal x hx
    · exact hp

theorem State.Inv.store {s : State} (h : s.Inv) {a : Nat} (b : Byte)
    (ha : a < 2 ^ s.cfg.addrBits) : { s with mem := Memory.write s.mem a b }.Inv := by
  refine h.withMem (Memory.write_wf _ _ _ h.memCanonical) fun c hc => ?_
  rcases Memory.mem_write hc with ⟨rfl, -⟩ | hc
  · exact ha
  · exact h.memInRange c hc

/-- The perform step writes the write set, which lies in the address space, and leaves its copy idle. -/
theorem State.Inv.perform {s : State} (h : s.Inv) {k : Nat} {d : Instance} {p : Packer}
    {f : FrameDesc} (hd : s.instances[k]? = some d) (hp : d.pending = some p)
    (hf : d.frame? = some f) :
    { s with
      mem := packFrame s.mem p f
      instances := s.instances.set k { d with status := .ok, pending := none } }.Inv := by
  have hd : d ∈ s.instances := List.mem_of_getElem? hd
  have packed : { s with mem := packFrame s.mem p f }.Inv := by
    refine h.withMem (packFrame_wf _ p f h.memCanonical) fun c hc => ?_
    rcases mem_packFrame hc with hc | hc
    · exact h.writeSet_lt hd hp hf hc
    · exact h.memInRange c hc
  exact packed.setCopy k (h.addrsInRange d hd) (Instance.pendingLegal_of_pending_none _ rfl)

/-- Reset writes draws in pending write sets only and leaves every copy in its reset state. -/
theorem State.Inv.resetBlock {s : State} (h : s.Inv) : (resetBlock s).Inv where
  parametersOk := by simpa using h.parametersOk
  memCanonical := scramble_wf s _ h.memCanonical
  memInRange c hc := by
    rw [resetBlock_cfg]
    rcases mem_scramble hc with hc | hc
    · obtain ⟨d, hd, p, f, hp, hf, ha⟩ := mem_pendingAddrs.mp hc
      exact h.writeSet_lt hd hp hf ha
    · exact h.memInRange c hc
  targetExists := by simpa using h.targetExists
  addrsInRange d hd := by
    obtain ⟨-, -, rfl⟩ := List.mem_map.mp hd
    exact Instance.addrsInRange_reset _
  pendingLegal d hd := by
    obtain ⟨-, -, rfl⟩ := List.mem_map.mp hd
    exact Instance.pendingLegal_of_pending_none _ rfl

theorem Update.inv {s t : State} (h : Update s t) (hs : s.Inv) : t.Inv := by
  cases h with
  | agents | mark => exact hs.of_same rfl rfl rfl rfl
  | aim hd => exact hs.aim hd
  | copy hd hb he =>
    exact hs.setCopy _ (he.addrsInRange (hs.addrsInRange _ (List.mem_of_getElem? hd)))
      (he.pendingLegal hb)
  | store b ha => exact hs.store b ha
  | perform hd hp hf => exact hs.perform hd hp hf
  | reset => exact hs.resetBlock

/-- Settles O49: a step is a chain of updates, and each update keeps the invariant. -/
theorem stepKeepsInv : Obligations.StepKeepsInv :=
  fun _ _ hs h => step_keeps State.Inv Update.inv h hs

/-- Settles O48: no memory is listed, no address register holds a value and nothing is pending. -/
theorem resetInv : Obligations.ResetInv where
  parametersOk := by decide
  memCanonical := Memory.reset_wf
  memInRange := by simp [State.reset]
  targetExists := by decide
  addrsInRange d hd := by
    obtain rfl := List.mem_singleton.mp hd
    exact Instance.addrsInRange_reset _
  pendingLegal d hd := by
    obtain rfl := List.mem_singleton.mp hd
    exact Instance.pendingLegal_of_pending_none _ rfl

end Sys2Proof.Machine
end

section
/-! The parameters of the machine, and their values at reset. -/

namespace Sys2Proof.Machine

theorem Update.cfg_eq {s t : State} (h : Update s t) : t.cfg = s.cfg := by
  cases h with
  | agents | aim | mark | copy | store | perform => rfl
  | reset => exact resetBlock_cfg s

theorem Update.length_instances {s t : State} (h : Update s t) :
    t.instances.length = s.instances.length := by
  cases h with
  | agents | aim | mark | store => rfl
  | copy | perform => exact List.length_set
  | reset => exact List.length_map _

/-- Settles O41: no update changes them, so no chain of updates does. -/
theorem parametersAreFixed : Obligations.ParametersAreFixed := fun s _ h =>
  step_keeps (fun u => u.cfg = s.cfg ∧ u.instances.length = s.instances.length)
    (fun huv hu => ⟨huv.cfg_eq.trans hu.1, huv.length_instances.trans hu.2⟩) h ⟨rfl, rfl⟩

/-- Settles O44: the reset state holds these values as literals. -/
theorem resetValues : Obligations.ResetValues := by
  refine ⟨fun d hd => ?_, rfl, rfl, fun _ _ => Iff.rfl, rfl⟩
  obtain rfl := List.mem_singleton.mp hd
  decide

end Sys2Proof.Machine
end

section
/-! Whose turn it is, and that the step is that agent's move. -/

namespace Sys2Proof.Machine

/-! ### The packers -/

theorem perform_of_pending_none {s : State} {k : Nat} {d : Instance}
    (hd : s.instances[k]? = some d) (hp : d.pending = none) : perform k s = .next s := by
  simp [perform, hd, hp]

/-- The first entry that meets a test, found by its index. -/
theorem findIdx?_eq_some_of_first {α : Type} {p : α → Bool} {xs : List α} {k : Nat} {x : α}
    (hx : xs[k]? = some x) (hp : p x = true) (hfirst : ∀ j < k, ∀ y, xs[j]? = some y → p y = false) :
    xs.findIdx? p = some k := by
  obtain ⟨hk, rfl⟩ := List.getElem?_eq_some_iff.mp hx
  refine List.findIdx?_eq_some_iff_getElem.mpr ⟨hk, hp, fun j hj => ?_⟩
  simp [hfirst j hj _ (List.getElem?_eq_getElem (hj.trans hk))]

/-- With a CONVERT pending, the default move is the first busy copy's packer (log 8). -/
theorem defaultMove_of_firstBusy {s : State} {k : Nat} {d : Instance}
    (hd : s.instances[k]? = some d) (hb : d.busy = true)
    (hfirst : ∀ j < k, ∀ e, s.instances[j]? = some e → e.busy = false) :
    defaultMove s = .packer k := by
  simp [defaultMove, findIdx?_eq_some_of_first hd hb hfirst]

/-! ### The host threads -/

/-- A thread has ended exactly at the end of its program or at `stop` (R94). -/
theorem HostThread.live_eq_false_iff (u : HostThread) :
    u.live = false ↔ u.prog[u.line]? = none ∨ u.prog[u.line]? = some .stop := by
  unfold HostThread.live
  split <;> simp_all

theorem HostThread.live_of_line {u : HostThread} {l : HostLine} (hl : u.prog[u.line]? = some l)
    (hs : l ≠ .stop) : u.live = true := by
  rw [← Bool.not_eq_false, u.live_eq_false_iff, hl]
  simpa using hs

/-- With no CONVERT pending, the default move is the first live thread's (log 8). -/
theorem defaultMove_of_firstLive {s : State} {th : Nat} {t : HostThread}
    (hidle : ∀ d ∈ s.instances, d.busy = false) (ht : s.threads[th]? = some t)
    (hlive : t.live = true) (hfirst : ∀ j < th, ∀ u, s.threads[j]? = some u → u.live = false) :
    defaultMove s = .host th := by
  have hnone : s.instances.findIdx? (·.busy) = none := List.findIdx?_eq_none_iff.mpr hidle
  simp [defaultMove, hnone, findIdx?_eq_some_of_first ht hlive hfirst]

/-- Going to the next line is a jump to it. -/
theorem State.advance_eq_jump {s : State} {th : Nat} {t : HostThread}
    (ht : s.threads[th]? = some t) : s.advance th = s.jump th (t.line + 1) := by
  have hmod : s.threads.modify th (fun u => { u with line := u.line + 1 }) =
      s.threads.modify th (fun u => { u with line := t.line + 1 }) := by
    refine List.ext_getElem? fun j => ?_
    rw [List.getElem?_modify, List.getElem?_modify]
    split
    · subst th; simp [ht]
    · rfl
  simp only [State.advance, State.jump, State.updThread, hmod]

/-- A scheduled thread does the action of the line it has reached. -/
theorem step_of_hostLine {s : State} {ms : List Move} {th : Nat} {t : HostThread} {l : HostLine}
    {a : Action} (hs : s.schedule = .host th :: ms) (ht : s.threads[th]? = some t)
    (hl : t.prog[t.line]? = some l) (ha : lineAction s.cfg t l = a) :
    step s = runAction th a { s with schedule := ms } := by
  simp [step_of_scheduled hs, runMove, runThread, fetchAction, ht, hl, ha]

/-- A scheduled thread at the end of its program does nothing (log 25). -/
theorem step_of_endedThread {s : State} {ms : List Move} {th : Nat} {t : HostThread}
    (hs : s.schedule = .host th :: ms) (ht : s.threads[th]? = some t)
    (hl : t.prog[t.line]? = none) : step s = .next { s with schedule := ms } := by
  simp [step_of_scheduled hs, runMove, runThread, fetchAction, ht, hl]

/-- `wait` on a copy that exists: the thread stays while the copy is BUSY (R94). -/
theorem waitIdle_of {s : State} {k th : Nat} {d : Instance} (hd : s.instances[k]? = some d) :
    waitIdle k th s = .next ((if d.busy then s else s.advance th).aim k) := by
  rw [waitIdle, State.onTarget_of _ (show (s.aim k).instances[(s.aim k).target]? = some d from hd)]
  cases d.busy <;> rfl

/-- Settles O59: clause by clause, the turn (`defaultMove`, the schedule) and then the move. -/
theorem stepDoesTheMove : Obligations.StepDoesTheMove := by
  refine ⟨fun s ms k hs => step_of_scheduled hs, fun s k d => perform_of_pending_none, ?_, ?_,
    fun s ms hs => step_of_scheduled hs, ?_⟩
  · intro s k d hs hd hb hfirst
    rw [step_of_unscheduled hs, defaultMove_of_firstBusy hd hb hfirst]
    rfl
  · rintro s th t hs hidle ht ⟨l, hl, hstop⟩ hfirst
    have hdead : ∀ j < th, ∀ u, s.threads[j]? = some u → u.live = false :=
      fun j hj u hu => u.live_eq_false_iff.mpr (hfirst j hj u hu)
    rw [step_of_unscheduled hs,
      defaultMove_of_firstLive hidle ht (HostThread.live_of_line hl hstop) hdead]
    rfl
  · intro s ms th t hs ht stay goTo
    have hgo : stay.advance th = goTo (t.line + 1) := State.advance_eq_jump ht
    refine ⟨step_of_endedThread hs ht, fun l hl => ?_⟩
    have run : ∀ {a}, lineAction s.cfg t l = a → step s = runAction th a stay :=
      step_of_hostLine hs ht hl
    rw [← hgo]
    exact ⟨fun k r v ha => run ha, fun k r x ha => run ha, fun a v ha => run ha,
      fun a x ha => run ha, fun k d ha hd => (run ha).trans (waitIdle_of hd),
      fun n ha => run ha, run, run⟩

end Sys2Proof.Machine
end

section
/-! The registers of one copy of the block, the operands that commands read from them, and the addresses
that these give. -/

namespace Sys2Proof

/-- An address lies in a region exactly when it is one of its bytes. -/
theorem Region.contains_iff_exists_byte (g : Region) (a : Nat) :
    g.contains a = true ↔ ∃ y < g.rows, ∃ i < g.extent, a = g.base + y * g.stride + i := by
  rw [← g.mem_addrs_iff]
  simp only [Region.addrs, Region.start, List.mem_flatMap, List.mem_range, List.mem_map, eq_comm]

namespace Machine

/-! ### Register writes and reads -/

/-- An operand register reads back the low bits of what it took, as many as it is wide (R34). -/
theorem Instance.readReg_writeReg_same (d : Instance) (c : Config) {r : RegName} (v : Nat)
    (hr : isOperandReg r = true) : (d.writeReg c r v).readReg r = some (v % 2 ^ regWidth c r) := by
  cases r with
  | cmd | status | busy | kernel => cases hr
  | srcTag | dstTag | width | height | yBase | yStride | uBase | uStride | vBase | vStride | dBase
  | dStride => simp [Instance.readReg, Instance.writeReg, regWidth]

/-- Each register has a field of its own, so a write leaves the reads of all others alone (R34). -/
theorem Instance.readReg_writeReg_other (d : Instance) (c : Config) {q r : RegName} (v : Nat)
    (h : q ≠ r) : (d.writeReg c r v).readReg q = d.readReg q := by
  cases r <;> cases q <;> trivial

/-- The operand registers do not depend on STATUS, KERNEL or the pending record. -/
theorem Instance.readReg_with_results (d : Instance) (c : StatusCode) (k : Option Layout)
    (p : Option Packer) {r : RegName} (hr : isOperandReg r = true) :
    ({ d with status := c, kernel := k, pending := p } : Instance).readReg r = d.readReg r := by
  cases r <;> trivial

theorem isOperandReg_of_mem_convertRegs {r : RegName} (h : r ∈ convertRegs) :
    isOperandReg r = true := by
  revert r; decide

/-! ### The operands of SELECT and of a CONVERT -/

/-- A register of 32 bits reads as the number of the word it holds. -/
theorem map_toNat_eq_some_iff {n : Nat} {x : Option (BitVec n)} {w : BitVec n} :
    x.map BitVec.toNat = some w.toNat ↔ x = some w := by
  simp [Option.map_eq_some_iff, BitVec.toNat_inj]

theorem Instance.selectOperands?_eq_some_iff_readReg (d : Instance) (o : SelectOperands) :
    d.selectOperands? = some o ↔
      d.readReg .srcTag = some o.src.toNat ∧ d.readReg .dstTag = some o.dst.toNat ∧
      d.readReg .width = some o.width.toNat ∧ d.readReg .height = some o.height.toNat := by
  simp only [d.selectOperands?_eq_some, Instance.readReg, map_toNat_eq_some_iff]

theorem Instance.frame?_eq_some_iff_readReg (d : Instance) (f : FrameDesc) :
    d.frame? = some f ↔
      d.readReg .width = some f.width ∧ d.readReg .height = some f.height ∧
      d.readReg .yBase = some f.yBase ∧ d.readReg .yStride = some f.yStride ∧
      d.readReg .uBase = some f.uBase ∧ d.readReg .uStride = some f.uStride ∧
      d.readReg .vBase = some f.vBase ∧ d.readReg .vStride = some f.vStride ∧
      d.readReg .dBase = some f.dBase ∧ d.readReg .dStride = some f.dStride := by
  simp only [d.frame?_eq_some, Instance.readReg, Option.map_eq_some_iff]
  constructor
  · rintro ⟨w, h, hw, hh, ew, eh, rest⟩
    exact ⟨⟨w, hw, ew.symm⟩, ⟨h, hh, eh.symm⟩, rest⟩
  · rintro ⟨⟨w, hw, ew⟩, ⟨h, hh, eh⟩, rest⟩
    exact ⟨w, h, hw, hh, ew.symm, eh.symm, rest⟩

/-- SELECT lacks its operands exactly when one of its four registers holds no value (R33). -/
theorem Instance.selectOperands?_eq_none_iff (d : Instance) :
    d.selectOperands? = none ↔
      ∃ r ∈ [RegName.srcTag, .dstTag, .width, .height], d.readReg r = none := by
  cases ho : d.selectOperands? with
  | some o =>
    obtain ⟨h1, h2, h3, h4⟩ := (d.selectOperands?_eq_some_iff_readReg o).mp ho
    simp [h1, h2, h3, h4]
  | none =>
    refine iff_of_true rfl ?_
    by_contra hall
    simp only [List.exists_mem_cons_iff, not_or, Instance.readReg, Option.map_eq_none_iff,
      ← ne_eq, Option.ne_none_iff_exists'] at hall
    obtain ⟨⟨a, h1⟩, ⟨b, h2⟩, ⟨w, h3⟩, ⟨h, h4⟩, -⟩ := hall
    rw [(d.selectOperands?_eq_some ⟨a, b, w, h⟩).mpr ⟨h1, h2, h3, h4⟩] at ho
    cases ho

/-- A CONVERT lacks its operands exactly when one of its ten registers holds no value (R33). -/
theorem Instance.frame?_eq_none_iff (d : Instance) :
    d.frame? = none ↔ ∃ r ∈ convertRegs, d.readReg r = none := by
  cases hf : d.frame? with
  | some f =>
    obtain ⟨h1, h2, h3, h4, h5, h6, h7, h8, h9, h10⟩ := (d.frame?_eq_some_iff_readReg f).mp hf
    simp [convertRegs, h1, h2, h3, h4, h5, h6, h7, h8, h9, h10]
  | none =>
    refine iff_of_true rfl ?_
    by_contra hall
    simp only [convertRegs, List.exists_mem_cons_iff, not_or, ← ne_eq,
      Option.ne_none_iff_exists'] at hall
    obtain ⟨⟨w, h1⟩, ⟨h, h2⟩, ⟨yb, h3⟩, ⟨ys, h4⟩, ⟨ub, h5⟩, ⟨us, h6⟩, ⟨vb, h7⟩, ⟨vs, h8⟩, ⟨db, h9⟩,
      ⟨ds, h10⟩, -⟩ := hall
    rw [(d.frame?_eq_some_iff_readReg ⟨w, h, yb, ys, ub, us, vb, vs, db, ds⟩).mpr
      ⟨h1, h2, h3, h4, h5, h6, h7, h8, h9, h10⟩] at hf
    cases hf

/-! ### The write set and the read footprint -/

/-- The read footprint, sample by sample (R55). -/
theorem FrameDesc.inFootprint_iff (f : FrameDesc) (a : Nat) :
    f.inFootprint a = true ↔ ∃ y < f.height,
      (∃ x < f.width, a = f.yBase + y * f.yStride + x) ∨
      ∃ j < f.width / 2, a = f.uBase + y * f.uStride + j ∨ a = f.vBase + y * f.vStride + j := by
  simp only [FrameDesc.inFootprint, Bool.or_eq_true, Region.contains_iff_exists_byte,
    FrameDesc.plane, and_or_left, exists_or, or_assoc]

/-- Settles O60: each operand is what its register reads, each address the sum of R52 or R53. -/
theorem operandsAndAddresses : Obligations.OperandsAndAddresses :=
  ⟨Instance.selectOperands?_eq_some_iff_readReg, Instance.frame?_eq_some_iff_readReg,
    Instance.conversion?_eq_some, fun _ _ _ _ => ⟨rfl, rfl, rfl⟩, fun _ _ _ => rfl,
    writeSet_contains_iff, FrameDesc.inFootprint_iff⟩

end Machine

end Sys2Proof
end

section
/-! Register accesses by case: what an access answers on a copy that exists, is busy or is idle. -/

namespace Sys2Proof.Machine

/-! ### Commands and register writes on the addressed copy -/

/-- R36: an access that BUSY guards is refused on a busy copy (log 1). -/
theorem State.onTarget_of_busy {s : State} {d : Instance} (f : Instance → Result)
    (hd : s.instances[s.target]? = some d) (hb : d.busy = true) :
    (s.onTarget fun d => if d.busy then s.refuse .writeWhileBusy else f d) =
      .next (s.mark .writeWhileBusy) := by
  rw [State.onTarget_of _ hd, if_pos hb, State.refuse]

/-- On an idle copy the guard of R36 lets the access through. -/
theorem State.onTarget_of_idle {s : State} {d : Instance} (f : Instance → Result)
    (hd : s.instances[s.target]? = some d) (hb : d.busy = false) :
    (s.onTarget fun d => if d.busy then s.refuse .writeWhileBusy else f d) = f d := by
  rw [State.onTarget_of _ hd, if_neg (Bool.eq_false_iff.mp hb)]

theorem writeOperandReg_of_idle {r : RegName} {v : Nat} {s : State} {d : Instance}
    (hd : s.instances[s.target]? = some d) (hb : d.busy = false) :
    writeOperandReg r v s = .next (s.setTarget (d.writeReg s.cfg r v)) :=
  State.onTarget_of_idle _ hd hb

/-- R36: BUSY guards every row. -/
theorem exec_of_busy {i : Instr} {s : State} {d : Instance}
    (hd : s.instances[s.target]? = some d) (hb : d.busy = true) :
    exec i s = .next (s.mark .writeWhileBusy) := by
  cases i <;> exact State.onTarget_of_busy _ hd hb

/-- The row of a kernel is its issue step (R135). -/
theorem exec_convertInstr (p : Packer) (s : State) : exec (convertInstr p) s = issueConvert p s := by
  cases p <;> rfl

theorem execSelect_of_unwritten {s : State} {d : Instance}
    (hd : s.instances[s.target]? = some d) (hb : d.busy = false) (ho : d.selectOperands? = none) :
    execSelect s = .next (s.mark .unwrittenOperand) :=
  (State.onTarget_of_idle _ hd hb).trans (by rw [ho, State.refuse])

theorem issueConvert_of_unwritten {p : Packer} {s : State} {d : Instance}
    (hd : s.instances[s.target]? = some d) (hb : d.busy = false) (hf : d.frame? = none) :
    issueConvert p s = .next (s.mark .unwrittenOperand) :=
  (State.onTarget_of_idle _ hd hb).trans (by rw [hf, State.refuse])

theorem issueConvert_of_legal {p : Packer} {s : State} {d : Instance} {f : FrameDesc}
    (hd : s.instances[s.target]? = some d) (hb : d.busy = false) (hf : d.frame? = some f)
    (hl : f.legal p s.cfg = true) :
    issueConvert p s = .next (s.setTarget { d with pending := some p }) :=
  (State.onTarget_of_idle _ hd hb).trans (by rw [hf]; exact if_pos hl)

/-! ### Host accesses to a register of copy `k` -/

/-- A tag word is a register value, whether or not the table lists it (R93; log 7). -/
theorem deliver_srcTag (k : Nat) (w : Word) (s : State) :
    deliver k .srcTag w s = writeOperandReg .srcTag w.toNat (s.aim k) := by
  by_cases hw : w = 0x32323449#32
  · subst hw; rfl
  · simp [deliver, decode, decodeSrcTag, hw]

/-- A row that DST_TAG lists is the write of its word (R84). -/
theorem exec_of_decodeDstTag {w : Word} {i : Instr} (h : decodeDstTag w = .instr i) (s : State) :
    exec i s = writeOperandReg .dstTag w.toNat s := by
  unfold decodeDstTag at h
  split_ifs at h with h1 h2 h3 h4 h5 h6 h7 h8 h9 <;> cases h <;> subst w <;> rfl

theorem deliver_dstTag (k : Nat) (w : Word) (s : State) :
    deliver k .dstTag w s = writeOperandReg .dstTag w.toNat (s.aim k) := by
  rw [deliver]
  cases hw : decode .dstTag w with
  | instr i => exact exec_of_decodeDstTag hw _
  | rejected e => rfl

/-- A host write to an operand register, the tags among them, is that register's write (R34). -/
theorem writeRegister_of_operand {r : RegName} (hr : isOperandReg r = true) (k v : Nat) (s : State) :
    writeRegister k r v s = writeOperandReg r v (s.aim k) := by
  cases r with
  | cmd | status | busy | kernel => cases hr
  | srcTag =>
    refine (deliver_srcTag k _ s).trans ?_
    simp only [writeOperandReg, Instance.writeReg, BitVec.ofNat_toNat, BitVec.setWidth_eq]
  | dstTag =>
    refine (deliver_dstTag k _ s).trans ?_
    simp only [writeOperandReg, Instance.writeReg, BitVec.ofNat_toNat, BitVec.setWidth_eq]
  | width | height | yBase | yStride | uBase | uStride | vBase | vStride | dBase | dStride => rfl

theorem deliver_of_instr {k : Nat} {p : Port} {w : Word} {i : Instr} (h : decode p w = .instr i)
    (s : State) : deliver k p w s = exec i (s.aim k) := by
  simp only [deliver, h]

/-- R36: any word written to CMD of a busy copy is refused. -/
theorem deliver_cmd_of_busy {k : Nat} {s : State} {d : Instance} (w : Word)
    (hd : s.instances[k]? = some d) (hb : d.busy = true) :
    deliver k .cmd w s = .next ((s.aim k).mark .writeWhileBusy) := by
  have hd : (s.aim k).instances[(s.aim k).target]? = some d := hd
  rw [deliver]
  split
  · exact exec_of_busy hd hb
  · exact State.onTarget_of_busy _ hd hb

theorem readRegister_of_value {k : Nat} {r : RegName} {s : State} {d : Instance} {v : Nat}
    (hd : s.instances[k]? = some d) (hv : d.readReg r = some v) (t x : Nat) :
    readRegister k r t x s = .next ((s.aim k).putTemp t x v) := by
  rw [readRegister, State.onTarget_of _ (show (s.aim k).instances[(s.aim k).target]? = some d from hd),
    hv]

theorem readRegister_of_unwritten {k : Nat} {r : RegName} {s : State} {d : Instance}
    (hd : s.instances[k]? = some d) (hv : d.readReg r = none) (t x : Nat) :
    readRegister k r t x s = .next ((s.aim k).mark .unwrittenOperand) := by
  rw [readRegister, State.onTarget_of _ (show (s.aim k).instances[(s.aim k).target]? = some d from hd),
    hv, State.refuse]

/-! ### The statements -/

/-- Settles O26: every write of the host is guarded by BUSY, and a read is not. -/
theorem busyRefusesWrites : Obligations.BusyRefusesWrites := fun s _ hd hb =>
  ⟨fun _ => exec_of_busy hd hb, State.onTarget_of_busy _ hd hb,
    fun v => deliver_cmd_of_busy (BitVec.ofNat 32 v) hd hb,
    fun _ v hr => (writeRegister_of_operand hr s.target v s).trans (State.onTarget_of_busy _ hd hb),
    fun _ t x _ hv => readRegister_of_value hd hv t x⟩

/-- Settles O27: the operands of a command are missing exactly when one of its registers is unwritten. -/
theorem unwrittenOperandRefused : Obligations.UnwrittenOperandRefused := fun s d hd =>
  ⟨fun hb h => execSelect_of_unwritten hd hb (d.selectOperands?_eq_none_iff.mpr h),
    fun p hb h => (exec_convertInstr p s).trans
      (issueConvert_of_unwritten hd hb (d.frame?_eq_none_iff.mpr h)),
    fun _ t x hv => readRegister_of_unwritten hd hv t x⟩

/-- Settles O13: the issue step on an idle copy with legal operands. -/
theorem convertIssueCompletes : Obligations.ConvertIssueCompletes := fun p s _ _ hd hb hf hl =>
  ⟨(exec_convertInstr p s).trans (issueConvert_of_legal hd hb hf hl), rfl⟩

/-- Settles O36: each tag row is the write of its word to its register. -/
theorem tagRowsComplete : Obligations.TagRowsComplete := by
  intro s d hd hb
  refine ⟨writeOperandReg_of_idle hd hb, fun iw hiw => ?_⟩
  fin_cases hiw <;> exact writeOperandReg_of_idle hd hb

/-- Settles O33: on an idle copy the write reaches its register and no other. -/
theorem operandWriteReadsBack : Obligations.OperandWriteReadsBack := by
  intro s k r n v d hd hb hrn
  obtain ⟨hr, rfl⟩ : isOperandReg r = true ∧ n = regWidth s.cfg r := by
    fin_cases hrn <;> exact ⟨rfl, rfl⟩
  have hread := d.readReg_writeReg_same s.cfg v hr
  refine ⟨d.writeReg s.cfg r v, ?_, hread, fun t x => ?_, fun q => d.readReg_writeReg_other s.cfg v⟩
  · rw [writeRegister_of_operand hr]
    exact writeOperandReg_of_idle (s := s.aim k) hd hb
  · have hk : k < s.instances.length := (List.getElem?_eq_some_iff.mp hd).1
    exact readRegister_of_value (List.getElem?_set_self hk) hread t x

/-- Settles O34: the three registers are no port and no operand register, so the write only addresses
its copy. -/
theorem readOnlyWritesIgnored : Obligations.ReadOnlyWritesIgnored := by
  intro s k r v d hd hr
  have hd : (s.aim k).instances[(s.aim k).target]? = some d := hd
  fin_cases hr <;> exact State.onTarget_of _ hd

/-! ### Temporaries of a host thread -/

theorem setTemp_getElem?_same (l : List Nat) (x v : Nat) : (setTemp l x v)[x]? = some v := by
  fun_induction setTemp l x v with
  | case1 | case3 => rfl
  | case2 _ _ ih | case4 _ _ _ _ ih => exact ih

/-- Another temporary that held a value still holds it (R94). -/
theorem setTemp_getElem?_other {l : List Nat} {x v y w : Nat} (hy : y ≠ x) (hw : l[y]? = some w) :
    (setTemp l x v)[y]? = some w := by
  fun_induction setTemp l x v generalizing y with
  | case1 | case2 => simp at hw
  | case3 => cases y with
    | zero => exact absurd rfl hy
    | succ y => exact hw
  | case4 _ _ _ _ ih => cases y with
    | zero => exact hw
    | succ y => exact ih (by omega) hw

/-- Taking a value replaces one thread, of which only the temporaries change. -/
theorem State.putTemp_eq {s : State} {t : Nat} {th : HostThread} (ht : s.threads[t]? = some th)
    (x v : Nat) :
    s.putTemp t x v =
      { s with threads := s.threads.set t { th with temps := setTemp th.temps x v } } := by
  simp [State.putTemp, State.updThread, List.modify_eq_set_getElem?, ht]

/-- Settles O35: a read gives what the register holds, and STATUS, BUSY and KERNEL hold the codes of R92
and R85. -/
theorem resultRegisterReads : Obligations.ResultRegisterReads := by
  refine ⟨fun d => ?_, fun s t x v th ht => ?_, fun s k t x d hd => ?_⟩
  · rw [← Bool.not_eq_false, ne_eq, not_iff_not]
    exact d.busy_eq_false_iff
  · exact ⟨_, State.putTemp_eq ht x v, setTemp_getElem?_same _ x v,
      fun _ _ => setTemp_getElem?_other, rfl, rfl⟩
  · have read {r : RegName} {v : Nat} (hv : d.readReg r = some v) :
        readRegister k r t x s = .next ((s.aim k).putTemp t x v) := readRegister_of_value hd hv t x
    refine ⟨read rfl, read ?_, read ?_, read ?_, fun _ _ => read⟩
    · simp only [Instance.readReg, statusWord]
      cases d.status <;> rfl
    · simp only [Instance.readReg, busyWord, Instance.busy]
      cases d.pending <;> rfl
    · simp only [Instance.readReg, kernelWord]
      rcases d.kernel with _ | l
      · rfl
      · cases l <;> rfl

/-! ### Lines of a host thread -/

/-- Settles O47: the thread's line is the write, and the decoder names the row. -/
theorem stepRunsDecodedRow : Obligations.StepRunsDecodedRow := by
  intro s ms th t l k v r p i hs ht hl ha hp hi
  have hstep : step s = writeRegister k r v (({ s with schedule := ms } : State).advance th) :=
    step_of_hostLine hs ht hl ha
  rw [hstep, writeRegister, hp]
  exact deliver_of_instr hi _

/-- REG_MAP gives an address to one register, so looking the address up finds it (R21). -/
theorem busTarget_of_mem {c : Config} {a k : Nat} {r : RegName} (hn : (c.regMap.map (·.1)).Nodup)
    (h : (a, k, r) ∈ c.regMap) : c.busTarget a = some (k, r) := by
  obtain ⟨l₁, l₂, hl⟩ := List.append_of_mem h
  refine List.lookup_eq_some_iff.mpr ⟨l₁, l₂, hl, fun e he => bne_iff_ne.mpr fun hae => ?_⟩
  rw [hl, List.map_append, List.map_cons, List.nodup_middle, List.nodup_cons] at hn
  exact hn.1 (List.mem_append_left _ (List.mem_map.mpr ⟨e, he, hae.symm⟩))

/-- Settles O54: the bus access looks its address up in REG_MAP. -/
theorem busAccessFollowsRegMap : Obligations.BusAccessFollowsRegMap := by
  intro c t o a v x k r hn hmem ho
  have hval : o.value t.temps = a := by
    obtain rfl | ⟨y, rfl, hy⟩ := ho
    · rfl
    · simp [Operand.value, hy]
  simp [lineAction, hval, busTarget_of_mem hn hmem]

end Sys2Proof.Machine
end

section
/-! What a move that answers a next state does to the copies of the block and to the refusal mark: for the
rows, for a host thread's line and for a packer, each case said once. -/

namespace Sys2Proof.Machine

/-! ### The rows -/

/-- Why a row is refused on the copy `d` (R33, R36, R135). -/
inductive RowRefused (c : Config) (d : Instance) : Instr → RefusalReason → Prop
  | busy {i : Instr} (hb : d.busy = true) : RowRefused c d i .writeWhileBusy
  | selectUnwritten (ho : d.selectOperands? = none) : RowRefused c d .select .unwrittenOperand
  | convertUnwritten {p : Packer} (hf : d.frame? = none) :
      RowRefused c d (convertInstr p) .unwrittenOperand
  | notLegal {p : Packer} {f : FrameDesc} (hf : d.frame? = some f) (hl : f.legal p c = false) :
      RowRefused c d (convertInstr p) .convertPrecondition

/-- What a row makes of the copy `d` (R118, R135, R143, R84). -/
inductive RowEffect (c : Config) (d : Instance) : Instr → Instance → Prop
  | select (code : StatusCode) (kernel : Option Layout) :
      RowEffect c d .select { d with status := code, kernel := kernel }
  | iuyv : RowEffect c d .convertIuyv { d with status := .notImplemented }
  | issue (p : Packer) : RowEffect c d (convertInstr p) { d with pending := some p }
  | srcTag (v : Nat) : RowEffect c d .srcI422 (d.writeReg c .srcTag v)
  | dstTag {i : Instr} (hi : (encode i).1 = .dstTag) (v : Nat) :
      RowEffect c d i (d.writeReg c .dstTag v)

/-- A row that answers a next state was refused, or had its effect on the addressed copy. -/
def RowAnswers (i : Instr) (s t : State) : Prop :=
  ∃ d, s.instances[s.target]? = some d ∧
    ((∃ r, RowRefused s.cfg d i r ∧ t = s.mark r) ∨ ∃ e, RowEffect s.cfg d i e ∧ t = s.setTarget e)

theorem execSelect_answers {s t : State} (h : execSelect s = .next t) : RowAnswers .select s t := by
  obtain ⟨d, hd, ⟨hb, rfl⟩ | ⟨-, ho, rfl⟩ | ⟨o, -, -, rfl⟩⟩ := execSelect_next h
  · exact ⟨d, hd, .inl ⟨_, .busy hb, rfl⟩⟩
  · exact ⟨d, hd, .inl ⟨_, .selectUnwritten ho, rfl⟩⟩
  · exact ⟨d, hd, .inr ⟨_, .select _ _, rfl⟩⟩

theorem issueConvert_answers {p : Packer} {s t : State} (h : issueConvert p s = .next t) :
    RowAnswers (convertInstr p) s t := by
  obtain ⟨d, hd, ⟨hb, rfl⟩ | ⟨-, hf, rfl⟩ | ⟨f, -, hf, hl, rfl⟩ | ⟨f, -, -, -, rfl⟩⟩ :=
    issueConvert_next h
  · exact ⟨d, hd, .inl ⟨_, .busy hb, rfl⟩⟩
  · exact ⟨d, hd, .inl ⟨_, .convertUnwritten hf, rfl⟩⟩
  · exact ⟨d, hd, .inl ⟨_, .notLegal hf hl, rfl⟩⟩
  · exact ⟨d, hd, .inr ⟨_, .issue p, rfl⟩⟩

theorem writeOperandReg_answers {i : Instr} {r : RegName} {v : Nat} {s t : State}
    (he : ∀ d, RowEffect s.cfg d i (d.writeReg s.cfg r v)) (h : writeOperandReg r v s = .next t) :
    RowAnswers i s t := by
  obtain ⟨d, hd, ⟨hb, rfl⟩ | ⟨-, rfl⟩⟩ := writeOperandReg_next h
  · exact ⟨d, hd, .inl ⟨_, .busy hb, rfl⟩⟩
  · exact ⟨d, hd, .inr ⟨_, he d, rfl⟩⟩

theorem execConvertIuyv_answers {s t : State} (h : execConvertIuyv s = .next t) :
    RowAnswers .convertIuyv s t := by
  obtain ⟨d, hd, ⟨hb, rfl⟩ | ⟨-, rfl⟩⟩ := report_next h
  · exact ⟨d, hd, .inl ⟨_, .busy hb, rfl⟩⟩
  · exact ⟨d, hd, .inr ⟨_, .iuyv, rfl⟩⟩

theorem exec_answers {i : Instr} {s t : State} (h : exec i s = .next t) : RowAnswers i s t := by
  cases i with
  | select => exact execSelect_answers h
  | convertYuyv => exact issueConvert_answers (p := .yuyv) h
  | convertYvyu => exact issueConvert_answers (p := .yvyu) h
  | convertUyvy => exact issueConvert_answers (p := .uyvy) h
  | convertCyuv => exact issueConvert_answers (p := .cyuv) h
  | convertY211 => exact issueConvert_answers (p := .y211) h
  | convertIuyv => exact execConvertIuyv_answers h
  | srcI422 => exact writeOperandReg_answers (fun _ => .srcTag _) h
  | dstYuy2 | dstYunv | dstYvyu | dstUyvy | dstUynv | dstY422 | dstIuyv | dstCyuv | dstY211 =>
    exact writeOperandReg_answers (fun _ => .dstTag rfl _) h

/-- Settles O37: a refused row changes the mark alone, and any other row the registers of its effect. -/
theorem rowFrame : Obligations.RowFrame := by
  intro i s t d hd h
  obtain ⟨d', hd', ⟨r, -, rfl⟩ | ⟨e, he, rfl⟩⟩ := exec_answers h
  · exact ⟨fun _ => rfl, rfl, rfl, rfl, rfl, rfl, fun _ _ => rfl, d, hd, by simp⟩
  · obtain rfl : d = d' := Option.some.inj (hd.symm.trans hd')
    refine ⟨fun _ => rfl, rfl, rfl, rfl, rfl, rfl, fun j => State.setTarget_get_other, e,
      State.setTarget_get hd, ?_⟩
    have operands : ∀ r ∈ convertRegs, e.readReg r = d.readReg r := by
      intro r hr
      have hop := isOperandReg_of_mem_convertRegs hr
      cases he with
      | select | iuyv | issue => exact d.readReg_with_results _ _ _ hop
      | srcTag v => exact d.readReg_writeReg_other _ v (by rintro rfl; revert hr; decide)
      | dstTag hi v => exact d.readReg_writeReg_other _ v (by rintro rfl; revert hr; decide)
    cases he with
    | select => exact ⟨by simp, by simp, fun _ => rfl, fun _ => rfl, fun _ => rfl, operands⟩
    | iuyv => exact ⟨fun _ => rfl, by simp, fun _ => rfl, fun _ => rfl, fun _ => rfl, operands⟩
    | issue p =>
      exact ⟨fun _ => rfl, fun _ _ => rfl, fun hp => absurd rfl (hp p), fun _ => rfl, fun _ => rfl,
        operands⟩
    | srcTag => exact ⟨fun _ => rfl, fun _ _ => rfl, fun _ => rfl, by simp, fun _ => rfl, operands⟩
    | dstTag hi => exact ⟨fun _ => rfl, fun _ _ => rfl, fun _ => rfl, fun _ => rfl,
        fun hn => absurd hi hn, operands⟩

/-! ### Words written to CMD -/

/-- A word written to CMD never runs a tag row (R96). -/
theorem encode_port_of_decode_cmd {w : Word} {i : Instr} (h : decode .cmd w = .instr i) :
    (encode i).1 = .cmd := by
  simp only [decode, decodeCmd, decodeKid] at h
  split_ifs at h
  · cases h; rfl
  · split at h <;> cases h <;> rfl

/-- What a word written to CMD makes of the copy `d`: a result in STATUS, a selected kernel, or a pending
CONVERT. -/
inductive CommandEffect (w : Word) (d : Instance) : Instance → Prop
  | select (hw : decode .cmd w = .instr .select) (code : StatusCode) (kernel : Option Layout) :
      CommandEffect w d { d with status := code, kernel := kernel }
  | report (code : StatusCode) : CommandEffect w d { d with status := code }
  | issue {p : Packer} (hw : decode .cmd w = .instr (convertInstr p)) :
      CommandEffect w d { d with pending := some p }

theorem RowEffect.command {c : Config} {w : Word} {i : Instr} {d e : Instance}
    (h : RowEffect c d i e) (hw : decode .cmd w = .instr i) : CommandEffect w d e := by
  have hport := encode_port_of_decode_cmd hw
  cases h with
  | select => exact .select hw _ _
  | iuyv => exact .report _
  | issue p => exact .issue hw
  | srcTag => cases hport
  | dstTag hi => rw [hi] at hport; cases hport

/-- A word written to CMD of copy `k` that answers a next state: refused while BUSY, refused as its row
is, or carried out. -/
theorem deliver_cmd_next {k : Nat} {w : Word} {s t : State} (h : deliver k .cmd w s = .next t) :
    ∃ d, s.instances[k]? = some d ∧
      ((d.busy = true ∧ t = (s.aim k).mark .writeWhileBusy) ∨
       (∃ i r, decode .cmd w = .instr i ∧ RowRefused s.cfg d i r ∧ t = (s.aim k).mark r) ∨
       ∃ e, CommandEffect w d e ∧ t = (s.aim k).setTarget e) := by
  obtain ⟨i, hw, h⟩ | ⟨-, -, ⟨-, h⟩ | ⟨hp, -⟩ | ⟨hp, -⟩⟩ := deliver_next h
  · obtain ⟨d, hd, ⟨r, hr, rfl⟩ | ⟨e, he, rfl⟩⟩ := exec_answers h
    · exact ⟨d, hd, .inr (.inl ⟨i, r, hw, hr, rfl⟩)⟩
    · exact ⟨d, hd, .inr (.inr ⟨e, he.command hw, rfl⟩)⟩
  · obtain ⟨d, hd, ⟨hb, rfl⟩ | ⟨-, rfl⟩⟩ := illegalCommand_next h
    · exact ⟨d, hd, .inl ⟨hb, rfl⟩⟩
    · exact ⟨d, hd, .inr (.inr ⟨_, .report _, rfl⟩)⟩
  · cases hp
  · cases hp

/-! ### The line of a host thread -/

/-- Why the action `a` of a host thread is refused (R33, R36, R68, R135). -/
inductive ActionRefused (s : State) : Action → RefusalReason → Prop
  | busy {k v : Nat} {q : RegName} {d : Instance} (hd : s.instances[k]? = some d)
      (hb : d.busy = true) (hq : q = .cmd ∨ isOperandReg q = true) :
      ActionRefused s (.write k q v) .writeWhileBusy
  | row {k v : Nat} {d : Instance} {i : Instr} {r : RefusalReason} (hd : s.instances[k]? = some d)
      (hw : decode .cmd (BitVec.ofNat 32 v) = .instr i) (hr : RowRefused s.cfg d i r) :
      ActionRefused s (.write k .cmd v) r
  | unwritten {k x : Nat} {q : RegName} {d : Instance} (hd : s.instances[k]? = some d)
      (hq : d.readReg q = none) : ActionRefused s (.read k q x) .unwrittenOperand
  | buffer {a v : Nat} (ha : inPendingWriteSet s a = true ∨ inPendingFootprint s a = true) :
      ActionRefused s (.store a v) .bufferWriteWhileBusy

/-- What the action `a` of a host thread makes of the copy it addresses (R23, R25, R34, R37). -/
inductive ActionEffect (s : State) (k : Nat) (d : Instance) : Action → Instance → Prop
  | command {v : Nat} {e : Instance} (he : CommandEffect (BitVec.ofNat 32 v) d e) :
      ActionEffect s k d (.write k .cmd v) e
  | operand {r : RegName} (hr : isOperandReg r = true) (v : Nat) :
      ActionEffect s k d (.write k r v) (d.writeReg s.cfg r v)

/-- What the action `a` of a host thread, answering `t`, has done to the copies and to the mark: nothing,
or it was refused, or it changed the copy it addresses. -/
inductive ActionAnswers (s : State) (a : Action) (t : State) : Prop
  | quiet (hi : t.instances = s.instances) (hm : t.refusal = s.refusal)
  | refused {r : RefusalReason} (hr : ActionRefused s a r) (hi : t.instances = s.instances)
      (hm : t.refusal = some (s.refusal.getD r))
  | changed {d e : Instance} (hd : s.instances[t.target]? = some d)
      (he : ActionEffect s t.target d a e) (hi : t.instances = s.instances.set t.target e)
      (hm : t.refusal = s.refusal)

theorem writeRegister_answers {th k v : Nat} {q : RegName} {s t : State}
    (h : writeRegister k q v (s.advance th) = .next t) : ActionAnswers s (.write k q v) t := by
  by_cases hop : isOperandReg q = true
  · rw [writeRegister_of_operand hop] at h
    obtain ⟨d, hd, ⟨hb, rfl⟩ | ⟨-, rfl⟩⟩ := writeOperandReg_next h
    · exact .refused (.busy hd hb (.inr hop)) rfl rfl
    · exact .changed hd (.operand hop v) rfl rfl
  · obtain rfl | hq := eq_or_ne q .cmd
    · obtain ⟨d, hd, ⟨hb, rfl⟩ | ⟨i, r, hw, hr, rfl⟩ | ⟨e, he, rfl⟩⟩ := deliver_cmd_next h
      · exact .refused (.busy hd hb (.inl rfl)) rfl rfl
      · exact .refused (.row hd hw hr) rfl rfl
      · exact .changed hd (.command he) rfl rfl
    · obtain ⟨p, hp, -⟩ | ⟨-, hop', -⟩ | ⟨-, rfl⟩ := writeRegister_next h
      · cases q <;> simp_all [portOf, isOperandReg]
      · exact absurd hop' hop
      · exact .quiet rfl rfl

theorem runAction_answers {th : Nat} {a : Action} {s t : State} (h : runAction th a s = .next t) :
    ActionAnswers s a t := by
  cases a with
  | write k q v => exact writeRegister_answers h
  | read k q x =>
    obtain ⟨d, hd, ⟨v, -, rfl⟩ | ⟨hq, rfl⟩⟩ := readRegister_next h
    · exact .quiet rfl rfl
    · exact .refused (.unwritten hd hq) rfl rfl
  | wait k => obtain ⟨d, -, ⟨-, rfl⟩ | ⟨-, rfl⟩⟩ := waitIdle_next h <;> exact .quiet rfl rfl
  | jump l => cases h; exact .quiet rfl rfl
  | store a v =>
    obtain ⟨-, -, ⟨ha, rfl⟩ | ⟨-, rfl⟩⟩ := hostStore_next h
    · exact .refused (.buffer (Bool.or_eq_true_iff.mp ha)) rfl rfl
    · exact .quiet rfl rfl
  | load a x => obtain ⟨-, -, ⟨-, rfl⟩ | ⟨-, rfl⟩⟩ := hostLoad_next h <;> exact .quiet rfl rfl
  | halt => cases h; exact .quiet rfl rfl
  | unmapped => cases h

/-! ### Copies share nothing -/

/-- A packer changes no copy, or completes the pending CONVERT of its own (R136). -/
theorem perform_instances {k : Nat} {s t : State} (h : perform k s = .next t) :
    t.instances = s.instances ∨ ∃ d p, s.instances[k]? = some d ∧ d.pending = some p ∧
      t.instances = s.instances.set k { d with status := .ok, pending := none } := by
  obtain rfl | rfl | rfl | ⟨d, p, f, hd, hp, -, -, rfl⟩ := perform_next h
  · exact .inl rfl
  · exact .inl rfl
  · exact .inl rfl
  · exact .inr ⟨d, p, hd, hp, rfl⟩

/-- Settles O40: a host line changes at most the copy it addresses, a packer at most its own. -/
theorem copiesShareNothing : Obligations.CopiesShareNothing := by
  refine fun s t j => ⟨fun th h hj => ?_, fun k h hj => ?_⟩
  · obtain ⟨-, rfl⟩ | ⟨a, -, h⟩ := runThread_next h
    · rfl
    · cases runAction_answers h with
      | quiet hi | refused _ hi => rw [hi]
      | changed _ _ hi => rw [hi, List.getElem?_set_ne hj.symm]
  · obtain hi | ⟨d, p, -, -, hi⟩ := perform_instances h
    · rw [hi]
    · rw [hi, List.getElem?_set_ne hj.symm]

/-! ### Registers change by their own rule -/

/-- An entry of a list whose entry `j` was replaced by `x` is `x`, or is as it was. -/
theorem getElem?_set_cases {α : Type} {xs : List α} {j k : Nat} {x d e : α}
    (hd : xs[k]? = some d) (he : (xs.set j x)[k]? = some e) : (j = k ∧ e = x) ∨ e = d := by
  rw [List.getElem?_set] at he
  split_ifs at he with hjk hlt
  · exact .inl ⟨hjk, (Option.some.inj he).symm⟩
  · exact .inr (Option.some.inj (he.symm.trans hd))

/-- How a move other than reset makes `e` of the copy `k`, which is `d`. -/
inductive CopyChange (m : Move) (s : State) (k : Nat) (d : Instance) : Instance → Prop
  | unchanged : CopyChange m s k d d
  | host {th : Nat} {a : Action} {e : Instance} (hm : m = .host th)
      (ha : fetchAction s th = some a) (he : ActionEffect s k d a e) : CopyChange m s k d e
  | packer {p : Packer} (hm : m = .packer k) (hp : d.pending = some p) :
      CopyChange m s k d { d with status := .ok, pending := none }

theorem runMove_copyChange {m : Move} {s t : State} {k : Nat} {d e : Instance}
    (h : runMove m s = .next t) (hd : s.instances[k]? = some d) (he : t.instances[k]? = some e)
    (hreset : m ≠ .reset) : CopyChange m s k d e := by
  have same (hi : t.instances = s.instances) : CopyChange m s k d e := by
    obtain rfl : e = d := Option.some.inj (he.symm.trans (hi ▸ hd))
    exact .unchanged
  cases m with
  | host th =>
    obtain ⟨-, rfl⟩ | ⟨a, ha, h⟩ := runThread_next h
    · exact same rfl
    · cases runAction_answers h with
      | quiet hi | refused _ hi => exact same hi
      | changed hd' heff hi =>
        obtain ⟨rfl, rfl⟩ | rfl := getElem?_set_cases hd (hi ▸ he)
        · obtain rfl := Option.some.inj (hd.symm.trans hd')
          exact .host rfl ha heff
        · exact .unchanged
  | packer j =>
    obtain hi | ⟨d', p, hd', hp, hi⟩ := perform_instances h
    · exact same hi
    · obtain ⟨rfl, rfl⟩ | rfl := getElem?_set_cases hd (hi ▸ he)
      · obtain rfl := Option.some.inj (hd.symm.trans hd')
        exact .packer rfl hp
      · exact .unchanged
  | reset => exact absurd rfl hreset
  | idle => cases h; exact same rfl

/-- Settles O39: a copy changes by a word written to its CMD, by a write of an operand register, or by its
packer, and each of these changes only the registers of its rule. -/
theorem registersChangeOnlyByRule : Obligations.RegistersChangeOnlyByRule := by
  intro m s t k d e h hd he hreset
  cases runMove_copyChange h hd he hreset with
  | unchanged => exact ⟨absurd rfl, absurd rfl, absurd rfl, fun _ _ => absurd rfl⟩
  | packer hm hp =>
    exact ⟨fun _ => .inl ⟨hm, ⟨_, hp⟩, rfl⟩, absurd rfl, fun _ => .inl ⟨hm, rfl⟩,
      fun _ hr hne => absurd (d.readReg_with_results _ _ _ hr) hne⟩
  | host hm ha heff =>
    cases heff with
    | operand hr v =>
      refine ⟨absurd (d.writeReg_status ..), absurd (d.writeReg_kernel ..),
        absurd (d.writeReg_pending ..), fun q _ hne => ?_⟩
      obtain rfl : q = _ := by_contra fun hq => hne (d.readReg_writeReg_other _ v hq)
      exact ⟨_, v, hm, ha⟩
    | command hcmd =>
      have operands : ∀ r, isOperandReg r = true → e.readReg r = d.readReg r := by
        cases hcmd <;> exact fun r hr => d.readReg_with_results _ _ _ hr
      refine ⟨fun _ => .inr ⟨_, _, hm, ha⟩, ?_, ?_, fun r hr hne => absurd (operands r hr) hne⟩
      · cases hcmd with
        | select hw => exact fun _ => ⟨_, _, hm, ha, hw⟩
        | report | issue => exact absurd rfl
      · cases hcmd with
        | issue hw => exact fun _ => .inr ⟨_, _, _, hm, ha, hw, rfl⟩
        | select | report => exact absurd rfl

/-! ### The refusal mark -/

/-- No elementary update clears the mark or replaces its first reason (log 21). -/
theorem Update.refusal_eq_some {s t : State} (h : Update s t) {r : RefusalReason}
    (hs : s.refusal = some r) : t.refusal = some r := by
  cases h with
  | agents | aim | copy | store | perform => exact hs
  | mark => simp [hs]
  | reset => simpa using hs

/-- Settles O31: a step is a chain of updates, and no update clears the mark. -/
theorem refusalMarkIsKept : Obligations.RefusalMarkIsKept := by
  refine ⟨fun s r => ⟨fun hs => ?_, fun q hs => ?_⟩, fun s t r hs h => ?_⟩
  · simp [State.mark, hs]
  · cases s; cases hs; rfl
  · exact step_keeps (·.refusal = some r) (fun huv hu => huv.refusal_eq_some hu) h hs

/-- R73, R136: with a CONVERT pending, the perform step is refused or does the whole conversion. -/
theorem perform_of_conversion {k : Nat} {s : State} {d : Instance} {p : Packer} {f : FrameDesc}
    (hd : s.instances[k]? = some d) (hconv : d.conversion? = some (p, f)) :
    perform k s =
      if conflictsWith s k (p, f) then .next (s.mark .bufferWriteWhileBusy)
      else .next { s with
        mem := packFrame s.mem p f
        instances := s.instances.set k { d with status := .ok, pending := none } } := by
  obtain ⟨hp, hf⟩ := (d.conversion?_eq_some p f).mp hconv
  simp only [perform, hd, hp, hf, State.refuse]

/-- In a state of the invariant a packer refuses only for a conflict (R73; log 14, 27). -/
theorem perform_refusal {k : Nat} {s t : State} {r : RefusalReason} (hs : s.Inv) (hc : s.clean)
    (h : perform k s = .next t) (hr : t.refusal = some r) :
    r = .bufferWriteWhileBusy ∧ ∃ d p f, s.instances[k]? = some d ∧
      d.conversion? = some (p, f) ∧ conflictsWith s k (p, f) = true := by
  have unmarked {u : State} (hut : u = t) (hu : u.refusal = s.refusal) : False := by
    subst hut
    rw [hu, hc] at hr
    cases hr
  cases hd : s.instances[k]? with
  | none => exact (unmarked (by simpa [perform, hd] using h) rfl).elim
  | some d =>
    cases hp : d.pending with
    | none => exact (unmarked (by simpa [perform_of_pending_none hd hp] using h) rfl).elim
    | some p =>
      obtain ⟨f, hf, -⟩ := hs.pendingLegal d (List.mem_of_getElem? hd) p hp
      have hconv := (d.conversion?_eq_some p f).mpr ⟨hp, hf⟩
      rw [perform_of_conversion hd hconv] at h
      split_ifs at h with hconf
      · cases h
        rw [State.mark_refusal, hc] at hr
        cases hr
        exact ⟨rfl, d, p, f, rfl, hconv, hconf⟩
      · exact (unmarked (Host.Outcome.next.inj h) rfl).elim

/-- A clean host line that sets the mark was refused for the reason of the mark. -/
theorem runThread_refusal {th : Nat} {s t : State} {r : RefusalReason} (hc : s.clean)
    (h : runThread th s = .next t) (hr : t.refusal = some r) :
    ∃ a, fetchAction s th = some a ∧ ActionRefused s a r := by
  obtain ⟨-, rfl⟩ | ⟨a, ha, h⟩ := runThread_next h
  · rw [hc] at hr; cases hr
  · cases runAction_answers h with
    | quiet _ hm | changed _ _ _ hm => rw [hm, hc] at hr; cases hr
    | refused href _ hm =>
      rw [hm, hc] at hr
      cases hr
      exact ⟨a, ha, href⟩

/-- Settles O56: a host line sets the mark when it is refused, a packer when it conflicts, and neither
reset nor an idle move sets it. -/
theorem markSetOnlyByRefusedAction : Obligations.MarkSetOnlyByRefusedAction := by
  intro m s t r hs hc h hr
  cases m with
  | host th =>
    obtain ⟨a, ha, href⟩ := runThread_refusal hc h hr
    cases href with
    | busy hd hb hq => exact .inl ⟨rfl, th, _, _, _, _, rfl, ha, hd, hb, hq⟩
    | unwritten hd hq =>
      exact .inr (.inl ⟨rfl, th, _, _, rfl, hd, .inl ⟨_, _, ha, hq⟩⟩)
    | buffer hbuf => exact .inr (.inr (.inr ⟨rfl, .inl ⟨th, _, _, rfl, ha, hbuf⟩⟩))
    | row hd hw hrow =>
      cases hrow with
      | busy hb => exact .inl ⟨rfl, th, _, _, _, _, rfl, ha, hd, hb, .inl rfl⟩
      | selectUnwritten ho =>
        exact .inr (.inl ⟨rfl, th, _, _, rfl, hd,
          .inr (.inl ⟨_, ha, hw, (Instance.selectOperands?_eq_none_iff _).mp ho⟩)⟩)
      | convertUnwritten hf =>
        exact .inr (.inl ⟨rfl, th, _, _, rfl, hd,
          .inr (.inr ⟨_, _, ha, hw, (Instance.frame?_eq_none_iff _).mp hf⟩)⟩)
      | notLegal hf hl =>
        exact .inr (.inr (.inl ⟨rfl, th, _, _, _, _, _, rfl, ha, hw, hd, hf, hl⟩))
  | packer k =>
    obtain ⟨rfl, d, p, f, hd, hconv, hconf⟩ := perform_refusal hs hc h hr
    exact .inr (.inr (.inr ⟨rfl, .inr ⟨k, d, p, f, rfl, hd, hconv, hconf⟩⟩))
  | reset => cases h; rw [resetBlock_refusal, hc] at hr; cases hr
  | idle => cases h; rw [hc] at hr; cases hr

end Sys2Proof.Machine
end

section
/-! Reset: the pending write sets hold draws of this reset, and the copies their reset state. -/

namespace Sys2Proof.Machine

theorem mem_pendingAddrs_iff_inPendingWriteSet (s : State) (a : Nat) :
    a ∈ pendingAddrs s ↔ inPendingWriteSet s a = true := by
  simp only [pendingAddrs, inPendingWriteSet, List.mem_flatMap, List.any_eq_true]
  refine exists_congr fun d => and_congr_right fun _ => ?_
  rcases d.conversion? with _ | ⟨p, f⟩
  · simp
  · exact Region.mem_addrs_iff _ a

/-- An address that is scrambled holds a draw of this scrambling: the last one it was given. -/
theorem scramble_read_mem {s : State} {addrs : List Nat} {a : Nat} (hm : Memory.wf s.mem)
    (ha : a ∈ addrs) : ∃ n, s.drawn ≤ n ∧ n < (scramble s addrs).drawn ∧
      Memory.read (scramble s addrs).mem a = Config.draw n := by
  induction addrs generalizing s with
  | nil => cases ha
  | cons x xs ih =>
    by_cases hxs : a ∈ xs
    · obtain ⟨n, hlo, hhi, hread⟩ := ih (s := { s with
        mem := Memory.write s.mem x (Config.draw s.drawn), drawn := s.drawn + 1 })
        (Memory.write_wf _ _ _ hm) hxs
      exact ⟨n, (Nat.le_succ _).trans hlo, hhi, hread⟩
    · obtain rfl : a = x := (List.mem_cons.mp ha).resolve_right hxs
      refine ⟨s.drawn, le_rfl, ?_, ?_⟩
      · rw [scramble_drawn, List.length_cons]; omega
      · exact (scramble_read_other _ xs a hxs).trans (Memory.read_write_same _ _ _ hm)

/-- Settles O45: reset scrambles the pending write sets and gives every copy its reset state. -/
theorem resetAbandonsConversions : Obligations.ResetAbandonsConversions := by
  intro s ms hsched hm
  refine ⟨resetBlock { s with schedule := ms }, step_of_scheduled hsched, resetBlock_cfg _,
    resetBlock_refusal _, resetBlock_threads _, resetBlock_schedule _, List.map_const',
    fun a ha => ?_, fun a ha => ?_⟩
  · refine scramble_read_other _ _ a fun hmem => ?_
    exact Bool.false_ne_true (ha.symm.trans ((mem_pendingAddrs_iff_inPendingWriteSet _ a).mp hmem))
  · exact scramble_read_mem (s := { s with schedule := ms }) hm
      ((mem_pendingAddrs_iff_inPendingWriteSet _ a).mpr ha)

end Sys2Proof.Machine
end

section
/-! What the checks on regions and on a CONVERT's operands mean, address by address. -/

namespace Sys2Proof

/-! ### Regions and ordinary memory -/

theorem Region.apart_iff (g h : Region) :
    g.apart h = true ↔ ∀ a, ¬(g.contains a = true ∧ h.contains a = true) := by
  simp only [Region.contains_iff, Region.apart, List.all_eq_true, List.mem_range, decide_eq_true_eq]
  constructor
  · rintro hall a ⟨⟨y, hy, hlo, hhi⟩, z, hz, hlo', hhi'⟩
    have := hall y hy z hz
    omega
  · intro hshare y hy z hz
    by_contra hmeet
    refine hshare (max (g.start y) (h.start z)) ⟨⟨y, hy, ?_, ?_⟩, z, hz, ?_, ?_⟩ <;> omega

theorem Region.fits_iff (g : Region) (bits : Nat) : g.fits bits = true ↔
    (0 < g.rows → 0 < g.extent → g.base + (g.rows - 1) * g.stride + g.extent ≤ 2 ^ bits) :=
  decide_eq_true_iff

theorem Config.ordinary_iff (c : Config) (a : Nat) :
    c.ordinary a = true ↔ ∀ g ∈ c.devices, g.contains a = false := by
  simp [Config.ordinary]

/-- Settles O25: each check runs over the rows of the regions, so over all their bytes. -/
theorem apartExact : Obligations.ApartExact :=
  ⟨Region.contains_iff_exists_byte, Region.apart_iff, Config.ordinary_iff⟩

/-- The addresses of a region are those of its rows, one row after the other. -/
theorem Region.length_addrs (g : Region) : g.addrs.length = g.rows * g.extent := by
  simp [Region.addrs, List.length_flatMap]

theorem Packer.sourceRow_lt (p : Packer) {h r : Nat} (hr : r < h) : p.sourceRow h r < h := by
  cases p with
  | yuyv | yvyu | uyvy => exact hr
  | cyuv | y211 => simp only [Packer.sourceRow]; omega

namespace Machine

/-! ### The preconditions of a CONVERT -/

theorem FrameDesc.footprintApart_iff (f : FrameDesc) (g : Region) :
    f.footprintApart g = true ↔ ∀ a, ¬(g.contains a = true ∧ f.inFootprint a = true) := by
  simp only [FrameDesc.footprintApart, FrameDesc.inFootprint, Bool.and_eq_true, Bool.or_eq_true,
    Region.apart_iff, and_or_left, not_or, forall_and]

theorem FrameDesc.noWrap_iff (f : FrameDesc) (p : Packer) (bits : Nat) :
    f.noWrap p bits = true ↔
      ∀ g ∈ [f.plane .y, f.plane .u, f.plane .v, f.writeSet p], g.fits bits = true := by
  simp [FrameDesc.noWrap, and_assoc]

theorem FrameDesc.allOrdinary_iff (f : FrameDesc) (p : Packer) (c : Config) :
    f.allOrdinary p c = true ↔
      ∀ a, (f.writeSet p).contains a = true ∨ f.inFootprint a = true → c.ordinary a = true := by
  simp only [FrameDesc.allOrdinary, List.all_eq_true, Bool.and_eq_true, Config.ordinary_iff,
    FrameDesc.footprintApart_iff, Region.apart_iff]
  constructor
  · intro hall a ha g hg
    obtain ⟨hfoot, hwrite⟩ := hall g hg
    rw [← Bool.not_eq_true]
    intro hga
    exact ha.elim (fun hw => hwrite a ⟨hga, hw⟩) fun hf => hfoot a ⟨hga, hf⟩
  · intro hord g hg
    refine ⟨fun a ⟨hga, hf⟩ => ?_, fun a ⟨hga, hw⟩ => ?_⟩
    · exact Bool.false_ne_true ((hord a (.inr hf) g hg).symm.trans hga)
    · exact Bool.false_ne_true ((hord a (.inl hw) g hg).symm.trans hga)

theorem FrameDesc.legal_iff (f : FrameDesc) (p : Packer) (c : Config) :
    f.legal p c = true ↔ f.noWrap p c.addrBits = true ∧ f.shapeOk p = true ∧
      f.noOverlap p = true ∧ f.allOrdinary p c = true := by
  simp only [FrameDesc.legal, Bool.and_eq_true, and_assoc]

theorem FrameDesc.shapeOk_iff (f : FrameDesc) (p : Packer) : f.shapeOk p = true ↔
    f.width % 2 = 0 ∧ f.height % 2 = 0 ∧ f.width ≤ f.yStride ∧ f.width / 2 ≤ f.uStride ∧
      f.width / 2 ≤ f.vStride ∧ p.rowBytes f.width ≤ f.dStride :=
  decide_eq_true_iff

/-- The four regions of a conversion have as many rows as the frame. -/
theorem FrameDesc.rows_eq_height {f : FrameDesc} {p : Packer} {g : Region}
    (hg : g ∈ [f.plane .y, f.plane .u, f.plane .v, f.writeSet p]) : g.rows = f.height := by
  fin_cases hg <;> rfl

/-- Settles O24: each of the four checks is its precondition. -/
theorem preconditionsExact : Obligations.PreconditionsExact := by
  intro p f c
  rw [f.legal_iff, f.noWrap_iff, f.shapeOk_iff, FrameDesc.noOverlap, f.footprintApart_iff,
    f.allOrdinary_iff]
  refine and_congr_left fun _ => forall₂_congr fun g hg => ?_
  rw [g.fits_iff, FrameDesc.rows_eq_height hg]

theorem issueConvert_of_not_legal {p : Packer} {s : State} {d : Instance} {f : FrameDesc}
    (hd : s.instances[s.target]? = some d) (hb : d.busy = false) (hf : d.frame? = some f)
    (hl : f.legal p s.cfg = false) : issueConvert p s = .next (s.mark .convertPrecondition) :=
  (State.onTarget_of_idle _ hd hb).trans (by rw [hf]; exact if_neg (Bool.eq_false_iff.mp hl))

/-- Settles O28: an idle copy that holds its operands answers by the check of them alone. -/
theorem preconditionRefused : Obligations.PreconditionRefused := fun p s _ _ hd hb hf hl =>
  (exec_convertInstr p s).trans (issueConvert_of_not_legal hd hb hf hl)

/-! ### The bytes of a conversion -/

/-- The destinations of the writes of `pack` are the addresses of the write set, in their order. -/
theorem packCells_map_fst (m : Memory) (p : Packer) (f : FrameDesc) :
    (packCells m p f).map (·.1) = (f.writeSet p).addrs := by
  simp only [packCells, List.map_flatMap, List.map_map]
  rfl

/-- Settles O20: `pack` writes no address twice, and a region has `rows * extent` addresses. -/
theorem writeSetSize : Obligations.WriteSetSize := by
  intro p f hshape
  obtain ⟨-, -, -, -, -, hstride⟩ := (f.shapeOk_iff p).mp hshape
  refine ⟨packCells_map_fst [] p f ▸ packCells_nodup [] p f hstride, fun hp => ?_, fun hp => ?_⟩
  · have hrow : p.rowBytes f.width = f.width * 2 := by
      cases p with
      | yuyv | yvyu | uyvy | cyuv => exact Nat.mul_comm _ _
      | y211 => exact absurd rfl hp
    rw [Region.length_addrs, ← hrow, FrameDesc.writeSet]
  · subst hp
    exact Region.length_addrs _

/-- The columns of a plane that the read footprint covers (R55). -/
def FrameDesc.columns (f : FrameDesc) : Plane → Nat
  | .y => f.width
  | .u | .v => f.width / 2

/-- A sample of the frame lies in the read footprint. -/
theorem FrameDesc.inFootprint_sourceAddr (f : FrameDesc) (q : Plane) {x y : Nat}
    (hx : x < f.columns q) (hy : y < f.height) : f.inFootprint (f.sourceAddr q x y) = true := by
  rw [f.inFootprint_iff]
  cases q with
  | y => exact ⟨y, hy, .inl ⟨x, hx, rfl⟩⟩
  | u => exact ⟨y, hy, .inr ⟨x, hx, .inl rfl⟩⟩
  | v => exact ⟨y, hy, .inr ⟨x, hx, .inr rfl⟩⟩

/-- R138: a byte of a row copies a column of the frame. -/
theorem byteSource_column_lt (p : Packer) (f : FrameDesc) {i : Nat} (hw : f.width % 2 = 0)
    (hi : i < p.rowBytes f.width) : (byteSource p i).2 < f.columns (byteSource p i).1 := by
  obtain hj | hj | hj | hj : i % 4 = 0 ∨ i % 4 = 1 ∨ i % 4 = 2 ∨ i % 4 = 3 := by omega
  all_goals
    cases p with
    | yuyv | yvyu | uyvy | cyuv | y211 =>
      simp only [Packer.rowBytes] at hi
      simp only [byteSource, hj, FrameDesc.columns]
      omega

/-- Settles O19: the column and the row that a byte copies both lie in the frame. -/
theorem bytesStayInFrame : Obligations.BytesStayInFrame := fun p f _ _ hw hi hr =>
  f.inFootprint_sourceAddr _ (byteSource_column_lt p f hw hi) (p.sourceRow_lt hr)

end Machine

end Sys2Proof
end

section
/-! When two pending conversions conflict (R73), and what a CONVERT that is free of conflicts writes. -/

namespace Sys2Proof.Machine

/-! ### Conflicts -/

/-- One of the conversions `x` and `y` writes the byte at `a`, and the other writes or reads it (R73;
log 14). -/
def ClashAt (x y : Packer × FrameDesc) (a : Nat) : Prop :=
  ((x.2.writeSet x.1).contains a = true ∧
      ((y.2.writeSet y.1).contains a = true ∨ y.2.inFootprint a = true)) ∨
    (x.2.inFootprint a = true ∧ (y.2.writeSet y.1).contains a = true)

theorem compatible_eq_false_iff (x y : Packer × FrameDesc) :
    compatible x y = false ↔ ∃ a, ClashAt x y a := by
  rw [← not_iff_not, Bool.not_eq_false, not_exists]
  simp only [compatible, Bool.and_eq_true, Region.apart_iff, FrameDesc.footprintApart_iff,
    ← forall_and, ClashAt]
  exact forall_congr' fun a => by tauto

theorem conflictsWith_iff (s : State) (k : Nat) (x : Packer × FrameDesc) :
    conflictsWith s k x = true ↔ ∃ j e y, k ≠ j ∧ s.instances[j]? = some e ∧
      e.conversion? = some y ∧ ∃ a, ClashAt x y a := by
  simp only [conflictsWith, List.any_eq_true, List.mem_zipIdx_iff_getElem?, Bool.and_eq_true,
    bne_iff_ne, ← compatible_eq_false_iff]
  constructor
  · rintro ⟨⟨e, j⟩, he, hj, hc⟩
    cases hy : e.conversion? with
    | none => simp [hy] at hc
    | some y => exact ⟨j, e, y, hj.symm, he, hy, by simpa [hy] using hc⟩
  · rintro ⟨j, e, y, hj, he, hy, hc⟩
    exact ⟨(e, j), he, hj.symm, by simp [hy, hc]⟩

/-- Settles O29: the perform step is refused exactly when the check finds a conflict. -/
theorem conflictingPerformRefused : Obligations.ConflictingPerformRefused := by
  have exact_check : ∀ (s : State) (k : Nat) (p : Packer) (f : FrameDesc),
      conflictsWith s k (p, f) = true ↔ ∃ j e q g a, k ≠ j ∧ s.instances[j]? = some e ∧
        e.conversion? = some (q, g) ∧ ClashAt (p, f) (q, g) a := by
    intro s k p f
    simp only [conflictsWith_iff, Prod.exists, exists_and_left]
  refine ⟨exact_check, fun s k j d e p q f g a hkj hd he hp hq hclash => ?_⟩
  have hc := (exact_check s k p f).mpr ⟨j, e, q, g, a, hkj, he, hq, hclash⟩
  rw [perform_of_conversion hd hp, if_pos hc]

/-- Free of conflicts, a pending CONVERT performs (R136). -/
theorem perform_of_conflictFree {k : Nat} {s : State} {d : Instance} {p : Packer} {f : FrameDesc}
    (hd : s.instances[k]? = some d) (hconv : d.conversion? = some (p, f))
    (hc : conflictsWith s k (p, f) = false) :
    perform k s = .next { s with
      mem := packFrame s.mem p f
      instances := s.instances.set k { d with status := .ok, pending := none } } := by
  rw [perform_of_conversion hd hconv, if_neg (Bool.eq_false_iff.mp hc)]

/-- Fewer pending conversions on the other copies leave no more to conflict with. -/
theorem conflictsWith_eq_false_of_subset {s t : State} {k : Nat} {x : Packer × FrameDesc}
    (hsub : ∀ j e y, k ≠ j → t.instances[j]? = some e → e.conversion? = some y →
      s.instances[j]? = some e)
    (h : conflictsWith s k x = false) : conflictsWith t k x = false := by
  rw [← Bool.not_eq_true, conflictsWith_iff] at h ⊢
  rintro ⟨j, e, y, hkj, he, hy, hclash⟩
  exact h ⟨j, e, y, hkj, hsub j e y hkj he hy, hy, hclash⟩

/-! ### The bytes of a conversion -/

/-- The four bytes of a unit copy the samples of its kernel, in its order (R140 to R145). -/
theorem byteSource_unit (p : Packer) (k : Nat) :
    [0, 1, 2, 3].map (fun j => byteSource p (4 * k + j)) = match p with
      | .yuyv => [(.y, 2 * k), (.u, k), (.y, 2 * k + 1), (.v, k)]
      | .yvyu => [(.y, 2 * k), (.v, k), (.y, 2 * k + 1), (.u, k)]
      | .uyvy | .cyuv => [(.u, k), (.y, 2 * k), (.v, k), (.y, 2 * k + 1)]
      | .y211 => [(.y, 4 * k), (.u, 2 * k), (.y, 4 * k + 2), (.v, 2 * k)] := by
  cases p <;> simp [byteSource, Nat.mul_add_div]

/-- A CONVERT runs from `s` to `u`, and every byte of its rows is the one its kernel gives (R138). -/
structure ConvertsBytes (p : Packer) (s : State) (d : Instance) (f : FrameDesc) (u : State) :
    Prop where
  converts : Converts p s d f u
  bytes : ∀ r < f.height, ∀ i < p.rowBytes f.width,
    Memory.read u.mem (f.dstAddr i r) = outputByte s.mem p f i (p.sourceRow f.height r)

/-- A CONVERT of legal operands on an idle copy, free of conflicts, is issued and performed. -/
theorem exists_convertsBytes {p : Packer} {s : State} {d : Instance} {f : FrameDesc}
    (hm : Memory.wf s.mem) (hd : s.instances[s.target]? = some d) (hb : d.busy = false)
    (hf : d.frame? = some f) (hl : f.legal p s.cfg = true)
    (hc : conflictsWith s s.target (p, f) = false) : ∃ u, ConvertsBytes p s d f u := by
  obtain ⟨-, hshape, -, -⟩ := (f.legal_iff p _).mp hl
  obtain ⟨-, -, -, -, -, hstride⟩ := (f.shapeOk_iff p).mp hshape
  have hconv : ({ d with pending := some p } : Instance).conversion? = some (p, f) :=
    (Instance.conversion?_eq_some _ _ _).mpr ⟨rfl, hf⟩
  have hc' : conflictsWith (s.setTarget { d with pending := some p }) s.target (p, f) = false :=
    conflictsWith_eq_false_of_subset
      (fun j e y hj he _ => State.setTarget_get_other hj.symm ▸ he) hc
  refine ⟨{ s with
    mem := packFrame s.mem p f
    instances := s.instances.set s.target { d with status := .ok, pending := none } }, ?_, ?_⟩
  · exact {
      issue := (exec_convertInstr p s).trans (issueConvert_of_legal hd hb hf hl)
      perform := (perform_of_conflictFree (State.setTarget_get hd) hconv hc').trans
        (by simp [State.setTarget])
      registers := rfl
      outside := read_packFrame_other s.mem p f }
  · exact fun r hr i hi => read_packFrame_same s.mem p f hm hstride hr hi

/-- A whole unit of destination row `r` holds the samples that its bytes copy. -/
theorem ConvertsBytes.unitBytes {p : Packer} {s u : State} {d : Instance} {f : FrameDesc}
    (h : ConvertsBytes p s d f u) {k r : Nat} (hr : r < f.height)
    (hk : 4 * k + 4 ≤ p.rowBytes f.width) : unitBytes u.mem f k r =
      ([0, 1, 2, 3].map fun j => byteSource p (4 * k + j)).map fun x =>
        sample s.mem f x.1 x.2 (p.sourceRow f.height r) := by
  have byte : ∀ j < 4, Memory.read u.mem (f.dstAddr (4 * k + j) r) =
      outputByte s.mem p f (4 * k + j) (p.sourceRow f.height r) :=
    fun j hj => h.bytes r hr _ (by omega)
  rw [Machine.unitBytes, byte 1 (by omega), byte 2 (by omega), byte 3 (by omega)]
  exact congrArg (· :: _) (byte 0 (by omega))

/-- Settles O14: the bytes of a unit copy the samples of its kernel's row. -/
theorem convertTopDown : Obligations.ConvertTopDown := by
  intro s d f hm hd hb hf
  refine ⟨fun hl hc => ?_, fun hl hc => ?_, fun hl hc => ?_⟩
  all_goals
    obtain ⟨u, hu⟩ := exists_convertsBytes hm hd hb hf hl hc
    refine ⟨u, hu.converts, fun r hr k hk => ?_⟩
    rw [hu.unitBytes hr (by simp only [Packer.rowBytes]; omega), byteSource_unit]
    rfl

/-- Settles O15: as for UYVY, from the mirrored source row. -/
theorem convertCyuv : Obligations.ConvertCyuv := by
  intro s d f hm hd hb hf hl hc
  obtain ⟨u, hu⟩ := exists_convertsBytes hm hd hb hf hl hc
  refine ⟨u, hu.converts, fun r hr k hk => ?_⟩
  rw [hu.unitBytes hr (by simp only [Packer.rowBytes]; omega), byteSource_unit]
  rfl

/-- Settles O16: byte by byte, since the last unit of a row may be cut (D17; log 16). -/
theorem convertY211 : Obligations.ConvertY211 := by
  intro s d f hm hd hb hf hl hc
  obtain ⟨u, hconv, hbytes⟩ := exists_convertsBytes hm hd hb hf hl hc
  refine ⟨u, hconv, fun r hr k => ?_⟩
  have hunit := byteSource_unit .y211 k
  simp only [List.map_cons, List.map_nil, List.cons.injEq, and_true] at hunit
  obtain ⟨h0, h1, h2, h3⟩ := hunit
  have copies : ∀ {i q x}, byteSource .y211 i = (q, x) → i < f.width →
      Memory.read u.mem (f.dstAddr i r) = sample s.mem f q x (f.height - 1 - r) := by
    intro i q x hsrc hi
    rw [hbytes r hr i hi, outputByte, hsrc]
    rfl
  exact ⟨copies h0, copies h1, copies h2, copies h3⟩

end Sys2Proof.Machine
end

section
/-! Canonical memories that read alike are equal (R50). -/

namespace Sys2Proof.Machine

theorem Memory.wf_cons (c : Host.Cell) (m : Memory) : Memory.wf (c :: m) ↔
    (∀ x ∈ m, c.1 < x.1) ∧ c.2 ≠ Memory.background ∧ Memory.wf m := by
  simp only [Memory.wf, List.pairwise_cons, List.forall_mem_cons]
  tauto

@[simp] theorem Memory.read_cons_self (a : Nat) (b : Byte) (m : Memory) :
    Memory.read ((a, b) :: m) a = b := if_pos rfl

/-- An address that is neither listed first nor later reads as the background. -/
theorem Memory.read_cons_of_lt {a k : Nat} {b : Byte} {m : Memory} (h : Memory.wf ((k, b) :: m))
    (ha : a < k) : Memory.read ((k, b) :: m) a = Memory.background := by
  obtain ⟨hlt, -, -⟩ := (Memory.wf_cons _ _).mp h
  refine Memory.read_of_lt_all _ a fun c hc => ?_
  obtain rfl | hc := List.mem_cons.mp hc
  · exact ha
  · exact ha.trans (hlt c hc)

/-- Where two canonical memories read alike, the first address that one lists is not below the other's. -/
theorem Memory.head_le {a k : Nat} {b c : Byte} {m n : Memory} (hm : Memory.wf ((a, b) :: m))
    (hn : Memory.wf ((k, c) :: n))
    (h : Memory.read ((a, b) :: m) a = Memory.read ((k, c) :: n) a) : k ≤ a := by
  obtain ⟨-, hb, -⟩ := (Memory.wf_cons _ _).mp hm
  by_contra hlt
  rw [Memory.read_cons_self, Memory.read_cons_of_lt hn (Nat.lt_of_not_le hlt)] at h
  exact hb h

/-- Canonical memories with one first cell that read alike have tails that read alike. -/
theorem Memory.read_tail_eq {k : Nat} {b : Byte} {m n : Memory} (hm : Memory.wf ((k, b) :: m))
    (hn : Memory.wf ((k, b) :: n))
    (h : ∀ a, Memory.read ((k, b) :: m) a = Memory.read ((k, b) :: n) a) (a : Nat) :
    Memory.read m a = Memory.read n a := by
  obtain ⟨hltm, -, -⟩ := (Memory.wf_cons _ _).mp hm
  obtain ⟨hltn, -, -⟩ := (Memory.wf_cons _ _).mp hn
  obtain rfl | ha := eq_or_ne a k
  · rw [Memory.read_of_lt_all m a hltm, Memory.read_of_lt_all n a hltn]
  · simpa only [Memory.read, if_neg ha] using h a

/-- Settles O55: the lowest address that a canonical memory lists is the lowest that does not read as the
background, so both list the same first cell; their tails are canonical and read alike. -/
theorem memoryIsCanonical : Obligations.MemoryIsCanonical := by
  intro m
  induction m with
  | nil =>
    rintro (_ | ⟨⟨k, c⟩, n⟩) hm hn h
    · rfl
    · obtain ⟨-, hc, -⟩ := (Memory.wf_cons _ _).mp hn
      exact absurd ((h k).trans (Memory.read_cons_self k c n)).symm hc
  | cons x m ih =>
    obtain ⟨a, b⟩ := x
    rintro (_ | ⟨⟨k, c⟩, n⟩) hm hn h
    · obtain ⟨-, hb, -⟩ := (Memory.wf_cons _ _).mp hm
      exact absurd ((Memory.read_cons_self a b m).symm.trans (h a)) hb
    · obtain rfl : a = k :=
        le_antisymm (Memory.head_le hn hm (h k).symm) (Memory.head_le hm hn (h a))
      obtain rfl : b = c := by simpa using h a
      rw [ih n ((Memory.wf_cons _ _).mp hm).2.2 ((Memory.wf_cons _ _).mp hn).2.2
        (Memory.read_tail_eq hm hn h)]

end Sys2Proof.Machine
end

section
/-! The host's byte accesses beside pending conversions, and the bytes that each move may change. -/

namespace Sys2Proof.Machine

/-! ### The buffers of the pending conversions -/

theorem inPendingWriteSet_iff (s : State) (a : Nat) : inPendingWriteSet s a = true ↔
    ∃ e ∈ s.instances, ∃ q g, e.conversion? = some (q, g) ∧ (g.writeSet q).contains a = true := by
  rw [inPendingWriteSet, List.any_eq_true]
  refine exists_congr fun e => and_congr_right fun _ => ?_
  rcases e.conversion? with _ | ⟨q, g⟩ <;> simp

theorem inPendingFootprint_iff (s : State) (a : Nat) : inPendingFootprint s a = true ↔
    ∃ e ∈ s.instances, ∃ q g, e.conversion? = some (q, g) ∧ g.inFootprint a = true := by
  rw [inPendingFootprint, List.any_eq_true]
  refine exists_congr fun e => and_congr_right fun _ => ?_
  rcases e.conversion? with _ | ⟨q, g⟩ <;> simp

/-- A byte that a conversion reads lies inside the address space (R56). -/
theorem FrameDesc.lt_of_inFootprint {f : FrameDesc} {p : Packer} {bits a : Nat}
    (hn : f.noWrap p bits = true) (ha : f.inFootprint a = true) : a < 2 ^ bits := by
  rw [f.noWrap_iff] at hn
  simp only [FrameDesc.inFootprint, Bool.or_eq_true] at ha
  have lt : ∀ q, (f.plane q).contains a = true → a < 2 ^ bits := fun q =>
    Region.lt_of_contains_of_fits _ _ a (hn _ (by cases q <;> simp))
  obtain (hy | hu) | hv := ha
  · exact lt .y hy
  · exact lt .u hu
  · exact lt .v hv

/-- A byte that a legal conversion reads lies in no pending write set: not in its own (R58), and not in
another's where none conflicts with it (R73). -/
theorem inPendingWriteSet_eq_false_of_inFootprint {s : State} {j a : Nat} {e : Instance}
    {q : Packer} {g : FrameDesc} (he : s.instances[j]? = some e)
    (hconv : e.conversion? = some (q, g)) (ho : g.noOverlap q = true)
    (hc : conflictsWith s j (q, g) = false) (ha : g.inFootprint a = true) :
    inPendingWriteSet s a = false := by
  rw [← Bool.not_eq_true, inPendingWriteSet_iff]
  rintro ⟨e', hmem, q', g', hconv', hw⟩
  obtain ⟨i, hi⟩ := List.mem_iff_getElem?.mp hmem
  by_cases hij : j = i
  · subst hij
    obtain rfl := Option.some.inj (he.symm.trans hi)
    obtain ⟨rfl, rfl⟩ : q = q' ∧ g = g' := by simpa using hconv.symm.trans hconv'
    exact (g.footprintApart_iff _).mp ho a ⟨hw, ha⟩
  · refine Bool.false_ne_true (hc.symm.trans ((conflictsWith_iff s j _).mpr ?_))
    exact ⟨i, e', (q', g'), hij, hi, hconv', a, .inr ⟨ha, hw⟩⟩

/-! ### Host stores and loads -/

section Access

variable {s : State} {a : Nat} (hlt : a < 2 ^ s.cfg.addrBits) (hord : s.cfg.ordinary a = true)

include hlt hord

theorem hostStore_of_ordinary (v : Nat) : hostStore a v s =
    if inPendingWriteSet s a || inPendingFootprint s a then .next (s.mark .bufferWriteWhileBusy)
    else .next { s with mem := Memory.write s.mem a (BitVec.ofNat 8 v) } := by
  rw [hostStore, if_neg (Nat.not_le.mpr hlt), if_neg (by simp [hord]), State.refuse]

theorem hostLoad_of_ordinary (t x : Nat) : hostLoad a t x s =
    if inPendingWriteSet s a then
      .next ({ s with drawn := s.drawn + 1 }.putTemp t x (Config.draw s.drawn).toNat)
    else .next (s.putTemp t x (Memory.read s.mem a).toNat) := by
  rw [hostLoad, if_neg (Nat.not_le.mpr hlt), if_neg (by simp [hord])]

end Access

/-- Settles O30: the check of the buffers finds the byte. -/
theorem storeToBufferRefused : Obligations.StoreToBufferRefused := by
  intro s j e q g a v he hconv hbuf hlt hord
  have hmem := List.mem_of_getElem? he
  have hpending : (inPendingWriteSet s a || inPendingFootprint s a) = true := by
    rw [Bool.or_eq_true, inPendingWriteSet_iff, inPendingFootprint_iff]
    exact hbuf.imp (fun h => ⟨e, hmem, q, g, hconv, h⟩) fun h => ⟨e, hmem, q, g, hconv, h⟩
  rw [hostStore_of_ordinary hlt hord, if_pos hpending]

/-- Settles O43: the check of the write sets finds the byte. -/
theorem loadFromPendingIsDraw : Obligations.LoadFromPendingIsDraw := by
  intro s j e q g a t x he hconv hw hlt hord
  rw [hostLoad_of_ordinary hlt hord, if_pos ((inPendingWriteSet_iff s a).mpr
    ⟨e, List.mem_of_getElem? he, q, g, hconv, hw⟩)]

/-- Settles O57: outside the pending write sets a load reads memory, and a byte that a legal conversion
reads is ordinary memory outside them. -/
theorem plainLoadReadsMemory : Obligations.PlainLoadReadsMemory := by
  have plain : ∀ (s : State) (a t x : Nat), a < 2 ^ s.cfg.addrBits → s.cfg.ordinary a = true →
      inPendingWriteSet s a = false →
      hostLoad a t x s = .next (s.putTemp t x (Memory.read s.mem a).toNat) := by
    intro s a t x hlt hord hw
    rw [hostLoad_of_ordinary hlt hord, if_neg (Bool.eq_false_iff.mp hw)]
  refine ⟨inPendingWriteSet_iff, inPendingFootprint_iff, plain, ?_⟩
  intro s j e q g a t x he hconv hl hc ha
  obtain ⟨hwrap, -, hover, hord⟩ := (g.legal_iff q _).mp hl
  exact plain s a t x (FrameDesc.lt_of_inFootprint hwrap ha)
    ((g.allOrdinary_iff q _).mp hord a (.inr ha))
    (inPendingWriteSet_eq_false_of_inFootprint he hconv hover hc ha)

/-- Settles O42: the store changes no copy, so the load's checks pass as the store's did. -/
theorem hostStoreThenLoad : Obligations.HostStoreThenLoad := by
  intro s a v t x hm hlt hord hw hf
  obtain ⟨-, -, plain, -⟩ := plainLoadReadsMemory
  refine ⟨{ s with mem := Memory.write s.mem a (BitVec.ofNat 8 v) }, ?_, rfl,
    fun b hb => Memory.read_write_other _ _ hb, ?_⟩
  · rw [hostStore_of_ordinary hlt hord, if_neg (by simp [hw, hf])]
  · have hload := plain { s with mem := Memory.write s.mem a (BitVec.ofNat 8 v) } a t x hlt hord hw
    rwa [Memory.read_write_same _ _ _ hm, BitVec.toNat_ofNat] at hload

/-! ### The bytes a move may change -/

theorem writeOperandReg_mem {r : RegName} {v : Nat} {s t : State}
    (h : writeOperandReg r v s = .next t) : t.mem = s.mem := by
  obtain ⟨d, -, ⟨-, rfl⟩ | ⟨-, rfl⟩⟩ := writeOperandReg_next h <;> rfl

theorem exec_mem {i : Instr} {s t : State} (h : exec i s = .next t) : t.mem = s.mem := by
  obtain ⟨d, -, ⟨r, -, rfl⟩ | ⟨e, -, rfl⟩⟩ := exec_answers h <;> rfl

theorem illegalCommand_mem {s t : State} (h : illegalCommand s = .next t) : t.mem = s.mem := by
  obtain ⟨d, -, ⟨-, rfl⟩ | ⟨-, rfl⟩⟩ := illegalCommand_next h <;> rfl

/-- R62: no register access writes memory. -/
theorem writeRegister_mem {k v : Nat} {r : RegName} {s t : State}
    (h : writeRegister k r v s = .next t) : t.mem = s.mem := by
  obtain ⟨p, -, h⟩ | ⟨-, -, h⟩ | ⟨-, rfl⟩ := writeRegister_next h
  · obtain ⟨i, -, h⟩ | ⟨e, -, ⟨-, h⟩ | ⟨-, h⟩ | ⟨-, h⟩⟩ := deliver_next h
    · exact exec_mem (s := s.aim k) h
    · exact illegalCommand_mem (s := s.aim k) h
    · exact writeOperandReg_mem (s := s.aim k) h
    · exact writeOperandReg_mem (s := s.aim k) h
  · exact writeOperandReg_mem (s := s.aim k) h
  · rfl

/-- Among the actions of a host thread only a store changes memory, and only at its address. -/
theorem runAction_read_ne {th b : Nat} {act : Action} {s t : State}
    (h : runAction th act s = .next t) (hb : Memory.read t.mem b ≠ Memory.read s.mem b) :
    ∃ v, act = .store b v := by
  have same (hmem : t.mem = s.mem) : ∃ v, act = .store b v := absurd (by rw [hmem]) hb
  cases act with
  | write k r v => exact same (writeRegister_mem (s := s.advance th) h)
  | read k r x => obtain ⟨d, -, ⟨v, -, rfl⟩ | ⟨-, rfl⟩⟩ := readRegister_next h <;> exact same rfl
  | wait k => obtain ⟨d, -, ⟨-, rfl⟩ | ⟨-, rfl⟩⟩ := waitIdle_next h <;> exact same rfl
  | load a x => obtain ⟨-, -, ⟨-, rfl⟩ | ⟨-, rfl⟩⟩ := hostLoad_next h <;> exact same rfl
  | jump l => cases h; exact same rfl
  | halt => cases h; exact same rfl
  | unmapped => cases h
  | store a v =>
    obtain ⟨-, -, ⟨-, rfl⟩ | ⟨-, rfl⟩⟩ := hostStore_next h
    · exact same rfl
    · obtain rfl : b = a := by_contra fun hne => hb (Memory.read_write_other _ _ hne)
      exact ⟨v, rfl⟩

/-- A packer changes only bytes of the write set of its copy's pending CONVERT (R62, R136). -/
theorem perform_read_ne {k a : Nat} {s t : State} (h : perform k s = .next t)
    (ha : Memory.read t.mem a ≠ Memory.read s.mem a) :
    ∃ d p f, s.instances[k]? = some d ∧ d.conversion? = some (p, f) ∧
      (f.writeSet p).contains a = true := by
  obtain rfl | rfl | rfl | ⟨d, p, f, hd, hp, hf, -, rfl⟩ := perform_next h
  · exact absurd rfl ha
  · exact absurd rfl ha
  · exact absurd rfl ha
  · refine ⟨d, p, f, hd, (d.conversion?_eq_some p f).mpr ⟨hp, hf⟩, ?_⟩
    rw [← Bool.not_eq_false]
    exact fun hout => ha (read_packFrame_other s.mem p f a hout)

/-- Reset changes only bytes of the write sets of pending CONVERTs (R201). -/
theorem resetBlock_read_ne {s : State} {a : Nat}
    (ha : Memory.read (resetBlock s).mem a ≠ Memory.read s.mem a) : inPendingWriteSet s a = true := by
  rw [← mem_pendingAddrs_iff_inPendingWriteSet]
  exact by_contra fun hout => ha (scramble_read_other s _ a hout)

/-- Settles O38: agent by agent, the bytes its move may change. -/
theorem memoryChangesOnlyByRule : Obligations.MemoryChangesOnlyByRule := by
  intro m s t a h ha
  cases m with
  | host th =>
    obtain ⟨-, rfl⟩ | ⟨act, hact, h⟩ := runThread_next h
    · exact absurd rfl ha
    · obtain ⟨v, rfl⟩ := runAction_read_ne h ha
      exact .inl ⟨th, v, rfl, hact⟩
  | packer k =>
    obtain ⟨d, p, f, hd, hconv, hw⟩ := perform_read_ne h ha
    exact .inr (.inl ⟨k, d, p, f, rfl, hd, hconv, hw⟩)
  | reset => cases h; exact .inr (.inr ⟨rfl, resetBlock_read_ne ha⟩)
  | idle => cases h; exact absurd rfl ha

end Sys2Proof.Machine
end

section
/-! With nothing scheduled and no conflict, the pending conversions complete one by one (R136, R214). -/

namespace Sys2Proof.Machine

/-- A clean state of the invariant from which the packers can do all that is pending: nothing is
scheduled, and no pending CONVERT conflicts with another (R73). -/
structure State.Draining (s : State) : Prop where
  inv : s.Inv
  clean : s.clean
  unscheduled : s.schedule = []
  conflictFree : ∀ k d a, s.instances[k]? = some d → d.conversion? = some a →
    conflictsWith s k a = false

/-- The copy that has performed is idle, so what is still pending was pending before. -/
theorem getElem?_of_pending_after_perform {s : State} {k j : Nat} {d e : Instance}
    {y : Packer × FrameDesc}
    (he : (s.instances.set k { d with status := .ok, pending := none })[j]? = some e)
    (hy : e.conversion? = some y) : s.instances[j]? = some e := by
  rw [List.getElem?_set] at he
  split_ifs at he with hkj hk
  · cases he
    cases hy
  · exact he

/-- The perform step of a busy copy leaves one pending CONVERT less. -/
theorem pendingCount_perform {s : State} {k : Nat} {d : Instance} (m : Memory)
    (hd : s.instances[k]? = some d) (hb : d.busy = true) :
    State.pendingCount { s with
      mem := m
      instances := s.instances.set k { d with status := .ok, pending := none } } + 1 =
      s.pendingCount := by
  obtain ⟨hk, rfl⟩ := List.getElem?_eq_some_iff.mp hd
  have hpos : 0 < s.instances.countP (·.busy) :=
    List.countP_pos_iff.mpr ⟨_, List.getElem_mem hk, hb⟩
  have hidle : ({ s.instances[k] with status := .ok, pending := none } : Instance).busy = false := rfl
  simp only [State.pendingCount, List.countP_set hk, hb, hidle, if_true, Bool.false_eq_true,
    if_false]
  omega

/-- With a CONVERT pending, a step performs one. -/
theorem State.Draining.step {s : State} (h : s.Draining) (hpos : 0 < s.pendingCount) :
    ∃ t, step s = .next t ∧ t.Draining ∧ t.pendingCount + 1 = s.pendingCount := by
  obtain ⟨e, he, hbusy⟩ := List.countP_pos_iff.mp hpos
  obtain ⟨k, hk⟩ : ∃ k, s.instances.findIdx? (·.busy) = some k :=
    Option.isSome_iff_exists.mp (List.findIdx?_isSome.trans (List.any_eq_true.mpr ⟨e, he, hbusy⟩))
  obtain ⟨hlt, hb, -⟩ := List.findIdx?_eq_some_iff_getElem.mp hk
  have hd : s.instances[k]? = some s.instances[k] := List.getElem?_eq_getElem hlt
  obtain ⟨p, hp⟩ := Option.isSome_iff_exists.mp hb
  obtain ⟨f, hf, -⟩ := h.inv.pendingLegal _ (List.getElem_mem hlt) p hp
  have hconv := (Instance.conversion?_eq_some _ p f).mpr ⟨hp, hf⟩
  refine ⟨_, ?_, ⟨h.inv.perform hd hp hf, h.clean, h.unscheduled, ?_⟩, pendingCount_perform _ hd hb⟩
  · rw [step_of_unscheduled h.unscheduled, defaultMove, hk]
    exact perform_of_conflictFree hd hconv (h.conflictFree k _ _ hd hconv)
  · intro j e y he hy
    exact conflictsWith_eq_false_of_subset (fun _ _ _ _ => getElem?_of_pending_after_perform)
      (h.conflictFree j e y (getElem?_of_pending_after_perform he hy) hy)

/-- A run goes on from what its first step answers. -/
theorem core_run_succ {s u : State} (h : Machine.step s = .next u) (n : Nat) :
    Host.Core.run Sys2Proof.core (n + 1) s = Host.Core.run Sys2Proof.core n u := by
  have hcore : Sys2Proof.core.step s = .next u := h
  simp only [Host.Core.run, hcore]

/-- As many steps as there are pending CONVERTs perform them all. -/
theorem State.Draining.run {s : State} {n : Nat} (h : s.Draining) (hn : s.pendingCount = n) :
    ∃ t, Host.Core.run Sys2Proof.core n s = .next t ∧ t.Draining ∧ t.pendingCount = 0 := by
  induction n generalizing s with
  | zero => exact ⟨s, rfl, h, hn⟩
  | succ n ih =>
    obtain ⟨u, hstep, hu, hcount⟩ := h.step (by omega)
    obtain ⟨t, hrun, ht⟩ := ih hu (by omega)
    exact ⟨t, (core_run_succ hstep n).trans hrun, ht⟩

/-- Settles O50: by induction on the number of pending CONVERTs. -/
theorem pendingConversionsComplete : Obligations.PendingConversionsComplete := by
  intro s hinv hclean hsched hfree
  obtain ⟨t, hrun, ht, hzero⟩ := State.Draining.run ⟨hinv, hclean, hsched, hfree⟩ rfl
  refine ⟨s.pendingCount, le_rfl, t, hrun, fun d hd => ?_, ht.clean⟩
  rw [← d.busy_eq_false_iff, ← Bool.not_eq_true]
  exact List.countP_eq_zero.mp hzero d hd

end Sys2Proof.Machine
end

section
/-! The decoder and the encoder agree (R81 to R91, R96): command words by their three fields, tag words by
their characters. -/

namespace Sys2Proof

/-! ### The fields of a command word -/

/-- A command word is its RSV, KID and OP fields, from the top (R86). -/
theorem cmdRsv_append_cmdKid_append_cmdOp (c : Word) : cmdRsv c ++ cmdKid c ++ cmdOp c = c := by
  have hkid : cmdRsv c ++ cmdKid c = c.extractLsb' 2 30 :=
    BitVec.extractLsb'_append_extractLsb'_eq_extractLsb' rfl
  rw [hkid]
  exact (BitVec.extractLsb'_append_extractLsb'_eq_extractLsb' rfl).trans BitVec.extractLsb'_eq_self

/-- With RSV zero, OP and KID alone give the word (R86, R89). -/
theorem cmdWord_cmdOp_cmdKid {c : Word} (h : cmdRsv c = 0#27) : cmdWord (cmdOp c) (cmdKid c) = c := by
  rw [cmdWord, ← h]
  exact cmdRsv_append_cmdKid_append_cmdOp c

/-- A kernel id that decodes to a CONVERT is the KID field of that row's word (R85, R90): for each row, all
eight ids. -/
theorem encode_of_decodeKid {k : BitVec 3} {i : Instr} (h : decodeKid k = .instr i) :
    encode i = (.cmd, cmdWord 0b10#2 k) := by
  revert k
  cases i <;> decide

/-! ### Both directions, row by row -/

theorem decode_encode (i : Instr) : decode (encode i).1 (encode i).2 = .instr i := by
  cases i <;> rfl

theorem encode_of_decodeCmd {w : Word} {i : Instr} (h : decodeCmd w = .instr i) :
    encode i = (.cmd, w) := by
  unfold decodeCmd at h
  split_ifs at h with hrsv hsel hkid hconv
  · cases h
    rw [← cmdWord_cmdOp_cmdKid (not_not.mp hrsv), hsel, hkid, encode]
  · rw [encode_of_decodeKid h, ← hconv, cmdWord_cmdOp_cmdKid (not_not.mp hrsv)]

theorem encode_of_decodeSrcTag {w : Word} {i : Instr} (h : decodeSrcTag w = .instr i) :
    encode i = (.srcTag, w) := by
  unfold decodeSrcTag at h
  split_ifs at h with hw
  cases h
  rw [hw]
  rfl

theorem encode_of_decodeDstTag {w : Word} {i : Instr} (h : decodeDstTag w = .instr i) :
    encode i = (.dstTag, w) := by
  unfold decodeDstTag at h
  split_ifs at h <;> cases h <;> subst w <;> rfl

/-- Settles O1: the encoder's word decodes to its row, and each port's decoder accepts no other word. -/
theorem decodeEncodeExact : Obligations.DecodeEncodeExact := by
  intro p w i
  constructor
  · intro h
    cases p with
    | cmd => exact encode_of_decodeCmd h
    | srcTag => exact encode_of_decodeSrcTag h
    | dstTag => exact encode_of_decodeDstTag h
  · intro h
    have hi := decode_encode i
    rwa [h] at hi

/-! ### The legal command words -/

/-- The seven legal command words (R90). -/
def commandWords : List Word :=
  [0x00000001#32, 0x00000002#32, 0x00000006#32, 0x0000000A#32, 0x0000000E#32, 0x00000012#32,
   0x00000016#32]

/-- A legal command word is one that the encoder gives to some row (R90, R96). -/
theorem mem_commandWords_iff (c : Word) : c ∈ commandWords ↔ ∃ i, encode i = (.cmd, c) := by
  constructor
  · intro h
    fin_cases h
    exacts [⟨.select, rfl⟩, ⟨.convertYuyv, rfl⟩, ⟨.convertYvyu, rfl⟩, ⟨.convertUyvy, rfl⟩,
      ⟨.convertIuyv, rfl⟩, ⟨.convertCyuv, rfl⟩, ⟨.convertY211, rfl⟩]
  · rintro ⟨i, h⟩
    cases i <;> cases h <;> decide

theorem Decoded.exists_rejected_iff (x : Decoded) : (∃ e, x = .rejected e) ↔ ¬∃ i, x = .instr i := by
  cases x <;> simp

/-- The decoder rejects a command word exactly when it is none of the seven (R90, R91). -/
theorem decode_cmd_rejected_iff (c : Word) :
    (∃ e, decode .cmd c = .rejected e) ↔ c ∉ commandWords := by
  simp only [Decoded.exists_rejected_iff, mem_commandWords_iff, decodeEncodeExact .cmd c]

/-- A word decodes to a command exactly when it is that command's word. -/
theorem decode_cmd_eq_instr_iff {i : Instr} {w : Word} (hi : encode i = (.cmd, w)) (c : Word) :
    decode .cmd c = .instr i ↔ c = w := by
  rw [decodeEncodeExact, hi, Prod.mk.injEq, eq_comm (a := w)]
  exact and_iff_right rfl

/-- Settles O2: a command's only word is its encoding, and a word of no command is rejected. -/
theorem commandWordsExact : Obligations.CommandWordsExact := fun c =>
  ⟨decode_cmd_eq_instr_iff rfl c, decode_cmd_eq_instr_iff rfl c, decode_cmd_eq_instr_iff rfl c,
    decode_cmd_eq_instr_iff rfl c, decode_cmd_eq_instr_iff rfl c, decode_cmd_eq_instr_iff rfl c,
    decode_cmd_eq_instr_iff rfl c, decode_cmd_rejected_iff c⟩

/-- Settles O3: the decoder run on the eight words. -/
theorem specWordsDecode : Obligations.SpecWordsDecode := ⟨rfl, rfl, rfl, rfl, rfl, rfl, rfl, rfl⟩

/-! ### Tag words -/

/-- Concatenation is base `2 ^ n` place value. -/
theorem toNat_append_eq_add {m n : Nat} (x : BitVec m) (y : BitVec n) :
    (x ++ y).toNat = 2 ^ n * x.toNat + y.toNat := by
  rw [BitVec.toNat_append, ← Nat.shiftLeft_add_eq_or_of_lt y.isLt, Nat.shiftLeft_eq, mul_comm]

/-- Settles O4: the place values of the four characters, the first lowest. -/
theorem tagWordPacking : Obligations.TagWordPacking := by
  intro c0 c1 c2 c3
  simp only [packTag, toNat_append_eq_add]
  omega

end Sys2Proof
end

section
/-! SELECT of a listed destination tag (R111, R114). -/

namespace Sys2Proof

/-- A key that occurs once in an association list looks up the value it stands with. -/
theorem lookup_eq_some_of_mem {α β : Type} [BEq α] [LawfulBEq α] {l : List (α × β)} {a : α} {b : β}
    (hn : (l.map (·.1)).Nodup) (h : (a, b) ∈ l) : l.lookup a = some b := by
  induction l with
  | nil => cases h
  | cons e l ih =>
    obtain ⟨hfresh, hn⟩ := List.nodup_cons.mp hn
    obtain rfl | h := List.mem_cons.mp h
    · exact List.lookup_cons_self
    · have hne : a ≠ e.1 := fun hae => hfresh (List.mem_map.mpr ⟨_, h, hae⟩)
      rw [List.lookup_cons, beq_false_of_ne hne]
      exact ih hn h

/-- In an unambiguous TAG_TABLE a listed tag denotes its layout (R83). -/
theorem TagTable.lookup_of_mem {t : TagTable} {w : Word} {l : Layout} (ht : t.unambiguous = true)
    (h : (w, l) ∈ t.dst) : t.dst.lookup w = some l :=
  lookup_eq_some_of_mem (of_decide_eq_true ht) h

/-- A dimension is even exactly when bit 0 of its register is clear. -/
theorem toNat_mod_two_eq_zero_iff (w : Word) : w.toNat % 2 = 0 ↔ w.getLsbD 0 = false := by
  simp [BitVec.getLsbD, Nat.testBit_zero]

namespace Machine

/-- The last two tests of R111: geometry and source passed, and a tag that denotes `l`. -/
theorem selector_of_listed {c : Config} {dst w h : Word} {l : Layout}
    (hw : w.getLsbD 0 = false) (hh : h.getLsbD 0 = false)
    (hdst : c.tagTable.dst.lookup dst = some l) :
    selector c c.tagTable.src422 dst w h =
      if l = .iuyv ∧ c.selectRejectsIuyv = true then (.notImplemented, none) else (.ok, some l) := by
  rw [← toNat_mod_two_eq_zero_iff] at hw hh
  simp [selector, hw, hh, hdst]

/-- On an idle copy with its operands, STATUS and KERNEL take the selector's result (R111, R118). -/
theorem execSelect_of_operands {s : State} {d : Instance} {o : SelectOperands}
    (hd : s.instances[s.target]? = some d) (hb : d.busy = false) (ho : d.selectOperands? = some o) :
    execSelect s = .next (s.setTarget { d with
      status := (selector s.cfg o.src o.dst o.width o.height).1
      kernel := (selector s.cfg o.src o.dst o.width o.height).2 }) :=
  (State.onTarget_of_idle _ hd hb).trans (by rw [ho]; rfl)

/-- Settles O8: the tag looks up its layout, which is not IUYV. -/
theorem muxResolves : Obligations.MuxResolves := by
  intro s d o l hd hb ho hw hh ht hsrc hmem hl
  have hsel : selector s.cfg o.src o.dst o.width o.height = (.ok, some l) := by
    rw [hsrc, selector_of_listed hw hh (TagTable.lookup_of_mem ht hmem), if_neg fun h => hl h.1]
  exact (execSelect_of_operands hd hb ho).trans (by rw [hsel])

end Machine

end Sys2Proof
end

section
/-! Illegal command words (R91, R202), and what the lines of a host thread do (R94, R95). -/

namespace Sys2Proof.Machine

/-! ### Illegal command words -/

/-- On an idle copy a command word that is none of the seven changes STATUS only (R91). -/
theorem deliver_cmd_of_not_mem_commandWords {k : Nat} {w : Word} {s : State} {d : Instance}
    (hd : s.instances[k]? = some d) (hb : d.busy = false) (hw : w ∉ commandWords) :
    deliver k .cmd w s = .next ((s.aim k).setTarget { d with status := .illegalCommand }) := by
  obtain ⟨e, he⟩ := (decode_cmd_rejected_iff w).mpr hw
  rw [deliver, he]
  exact State.onTarget_of_idle (s := s.aim k) _ hd hb

/-- Settles O32: a write to CMD delivers the value's low 32 bits. -/
theorem illegalCommandReported : Obligations.IllegalCommandReported := fun _ _ _ _ hd hb hv =>
  deliver_cmd_of_not_mem_commandWords hd hb hv

/-! ### Lines of a host thread -/

/-- A thread does the action of the line it has reached (R94). -/
theorem runThread_of_line {s : State} {th : Nat} {t : HostThread} {l : HostLine}
    (ht : s.threads[th]? = some t) (hl : t.prog[t.line]? = some l) :
    runThread th s = runAction th (lineAction s.cfg t l) s := by
  simp only [runThread, fetchAction, ht, hl]

/-- A temporary that holds a value is read as that value (R94). -/
theorem getD_of_holds {temps : List Nat} {x v : Nat} (h : temps[x]? = some v) : temps.getD x 0 = v := by
  rw [List.getD_eq_getElem?_getD, h, Option.getD_some]

/-- An operand's value is its number, or what its temporary holds (R94). -/
theorem Operand.value_of_holds {temps : List Nat} {o : Operand} {v : Nat}
    (h : o = .imm v ∨ ∃ x, o = .tmp x ∧ temps[x]? = some v) : o.value temps = v := by
  obtain rfl | ⟨x, rfl, hx⟩ := h
  · rfl
  · exact getD_of_holds hx

/-- Settles O46: KID 7 gives the command word 30, which is none of the seven (R85, R210). -/
theorem noneKernelIsIllegal : Obligations.NoneKernelIsIllegal := by
  intro s th t k x d ht hl hd hb hx
  have hline : lineAction s.cfg t (.convertKid k x) = .write k .cmd 30 := by
    rw [lineAction, getD_of_holds hx]
  rw [runThread_of_line ht hl, hline]
  exact illegalCommandReported (s.advance th) k 30 d hd hb (by decide)

/-- Settles O53: `if`, `goto` and `stop` are jumps or nothing, and `wait` reads BUSY once. -/
theorem hostControlFlow : Obligations.HostControlFlow := by
  intro s th t ht
  have run {l : HostLine} (hl : t.prog[t.line]? = some l) :
      runThread th s = runAction th (lineAction s.cfg t l) s := runThread_of_line ht hl
  refine ⟨fun x v n hl => ?_, fun n hl => run hl, fun hl => run hl, fun k d hl hd => ?_⟩
  · rw [run hl, lineAction]
    by_cases heq : t.temps.getD x 0 = v.value t.temps
    · rw [if_neg (not_not.mpr heq), if_pos heq, runAction]
    · rw [if_pos heq, if_neg heq, runAction]
  · refine (run hl).trans ((waitIdle_of hd).trans ?_)
    cases d.busy <;> rfl

/-- Settles O58: each line names its action, its operands read as the values they hold. -/
theorem hostLinesAct : Obligations.HostLinesAct := by
  intro c th k holds
  have value {o : Operand} {v : Nat} : holds o v → o.value th.temps = v := Operand.value_of_holds
  refine ⟨rfl, ?_, fun x v hx => ?_, fun o v ho => ?_, fun _ _ => rfl, fun _ _ _ _ _ _ => rfl,
    fun _ _ _ _ _ _ _ _ _ _ => rfl⟩
  · intro lw hlw
    fin_cases hlw <;> rfl
  · rw [lineAction, getD_of_holds hx]
  · have hv := value ho
    exact ⟨by rw [lineAction, hv], fun r => by rw [lineAction, hv], fun x => by rw [lineAction, hv],
      fun p a hp => by rw [lineAction, hv, value hp]⟩

end Sys2Proof.Machine
end

section
/-! What SELECT answers test by test (R111 to R118), and SELECT issued again (R119). -/

namespace Sys2Proof.Machine

/-! ### The tests of the selector, in the order of R120 -/

/-- The first test: an odd dimension fails whatever the tags (R112). -/
theorem selector_of_odd {c : Config} {src dst w h : Word}
    (hodd : w.getLsbD 0 = true ∨ h.getLsbD 0 = true) :
    selector c src dst w h = (.unsupportedGeometry, none) := by
  have htest : w.toNat % 2 ≠ 0 ∨ h.toNat % 2 ≠ 0 := by
    simpa only [ne_eq, toNat_mod_two_eq_zero_iff, Bool.not_eq_false] using hodd
  rw [selector, if_pos htest]

/-- The tests of the tags, once the geometry passed: a wrong source, or a destination that TAG_TABLE does
not list, fails whatever the other tag (R113, R116). -/
theorem selector_of_unlisted {c : Config} {src dst w h : Word}
    (hw : w.getLsbD 0 = false) (hh : h.getLsbD 0 = false)
    (htags : src ≠ c.tagTable.src422 ∨ c.tagTable.dst.lookup dst = none) :
    selector c src dst w h = (.unsupportedFormatPair, none) := by
  rw [← toNat_mod_two_eq_zero_iff] at hw hh
  by_cases hsrc : src = c.tagTable.src422
  · have hdst := htags.resolve_left (not_not.mpr hsrc)
    simp [selector, hw, hh, hsrc, hdst]
  · simp [selector, hw, hh, hsrc]

/-- The selector uses the destination tag only to look up its layout. -/
theorem selector_congr_lookup {c : Config} {src a b w h : Word}
    (hab : c.tagTable.dst.lookup a = c.tagTable.dst.lookup b) :
    selector c src a w h = selector c src b w h := by
  simp only [selector, hab]

/-- Settles O10: both tags look up the layout `l`. -/
theorem aliasesAgree : Obligations.AliasesAgree := fun _ _ _ _ _ _ _ ht ha hb =>
  selector_congr_lookup ((TagTable.lookup_of_mem ht ha).trans (TagTable.lookup_of_mem ht hb).symm)

/-! ### SELECT on an idle copy with its operands -/

/-- Settles O5: nothing refuses the command, so the selector's result is recorded. -/
theorem selectCompletes : Obligations.SelectCompletes := fun _ _ _ => execSelect_of_operands

/-- A known result of the selector is what SELECT records. -/
theorem exec_select_of_selector {s : State} {d : Instance} {o : SelectOperands} {code : StatusCode}
    {kernel : Option Layout} (hd : s.instances[s.target]? = some d) (hb : d.busy = false)
    (ho : d.selectOperands? = some o)
    (hsel : selector s.cfg o.src o.dst o.width o.height = (code, kernel)) :
    exec .select s = .next (s.setTarget { d with status := code, kernel := kernel }) := by
  rw [selectCompletes s d o hd hb ho, hsel]

/-- Settles O6: the geometry is tested first. -/
theorem oddGeometryRejected : Obligations.OddGeometryRejected := fun _ _ _ hd hb ho hodd =>
  exec_select_of_selector hd hb ho (selector_of_odd hodd)

/-- Settles O7: a tag that no entry lists has no layout to look up. -/
theorem formatPairRejected : Obligations.FormatPairRejected := by
  intro s d o hd hb ho hw hh htags
  refine exec_select_of_selector hd hb ho (selector_of_unlisted hw hh (htags.imp_right fun hdst => ?_))
  exact List.lookup_eq_none_iff.mpr fun e he => bne_iff_ne.mpr fun heq => hdst e.2 (heq ▸ he)

/-- Settles O9: the tag looks up IUYV, and the parameter decides the last test. -/
theorem iuyvAtSelect : Obligations.IuyvAtSelect := by
  intro s d o hd hb ho hw hh ht hsrc hmem
  have hsel := selector_of_listed hw hh (TagTable.lookup_of_mem ht hmem)
  rw [← hsrc] at hsel
  constructor
  · intro hrej
    exact exec_select_of_selector hd hb ho (hsel.trans (if_pos ⟨rfl, hrej⟩))
  · intro hacc
    exact exec_select_of_selector hd hb ho
      (hsel.trans (if_neg fun h => Bool.eq_false_iff.mp hacc h.2))

/-! ### SELECT issued again -/

/-- A refusal mark that is set stays as it is (log 21). -/
@[simp] theorem State.mark_mark (s : State) (r : RefusalReason) : (s.mark r).mark r = s.mark r := rfl

/-- Of two replacements of the addressed copy the later stands. -/
@[simp] theorem State.setTarget_setTarget (s : State) (d e : Instance) :
    (s.setTarget d).setTarget e = s.setTarget e := by
  simp [State.setTarget]

/-- An earlier result in STATUS and KERNEL has no part in what SELECT answers. -/
theorem exec_select_of_recorded {s : State} {d : Instance} {o : SelectOperands}
    (hd : s.instances[s.target]? = some d) (hb : d.busy = false) (ho : d.selectOperands? = some o)
    (code : StatusCode) (kernel : Option Layout) :
    exec .select (s.setTarget { d with status := code, kernel := kernel }) =
      .next (s.setTarget { d with
        status := (selector s.cfg o.src o.dst o.width o.height).1
        kernel := (selector s.cfg o.src o.dst o.width o.height).2 }) := by
  have hget := State.setTarget_get (e := { d with status := code, kernel := kernel }) hd
  rw [selectCompletes _ _ o hget hb ho, State.setTarget_setTarget, State.setTarget_cfg]

/-- Settles O11: a refused SELECT is refused again for the same reason, and one that completed
selects again from the same operands. -/
theorem selectIdempotent : Obligations.SelectIdempotent := by
  intro s t h
  obtain ⟨d, hd, ⟨hb, rfl⟩ | ⟨hb, ho, rfl⟩ | ⟨o, hb, ho, rfl⟩⟩ := execSelect_next h
  · rw [exec_of_busy (s := s.mark .writeWhileBusy) hd hb, State.mark_mark]
  · exact (execSelect_of_unwritten (s := s.mark .unwrittenOperand) hd hb ho).trans (by
      rw [State.mark_mark])
  · exact exec_select_of_recorded hd hb ho _ _

end Sys2Proof.Machine
end

section
/-! What the packing kernels write: the scan direction, the inverse unpacking, the mirror law, and that
nothing but the operands and the read footprint decides it. -/

namespace Sys2Proof.Machine

/-! ### Issue and scan direction -/

/-- Settles O12: on an idle copy the issue step reports NOT_IMPLEMENTED and reads no operand. -/
theorem iuyvNotImplemented : Obligations.IuyvNotImplemented := fun _ _ hd hb =>
  ⟨rfl, State.onTarget_of_idle _ hd hb, hb⟩

/-- Mirroring a row twice gives it back, and so does leaving it alone twice. -/
theorem sourceRow_sourceRow (p : Packer) {h r : Nat} (hr : r < h) :
    p.sourceRow h (p.sourceRow h r) = r := by
  cases p with
  | yuyv | yvyu | uyvy => rfl
  | cyuv | y211 => simp only [Packer.sourceRow]; omega

/-- Settles O18: the row map is the identity or the mirror, kernel by kernel. -/
theorem scanDirection : Obligations.ScanDirection := by
  refine fun h r hr => ⟨fun p hp => ?_, fun p hp => ?_,
    fun p => ⟨p.sourceRow_lt hr, sourceRow_sourceRow p hr⟩⟩
  · fin_cases hp <;> rfl
  · fin_cases hp <;> simp [Packer.sourceRow]

/-! ### The empty frame -/

theorem rowBytes_zero (p : Packer) : p.rowBytes 0 = 0 := by cases p <;> rfl

/-- A frame with no column or no row has no byte to write (R137). -/
theorem packFrame_of_empty {f : FrameDesc} (h : f.width = 0 ∨ f.height = 0) (m : Memory)
    (p : Packer) : packFrame m p f = m := by
  have hcells : packCells m p f = [] := by
    obtain hw | hh := h
    · simp [packCells, hw, rowBytes_zero]
    · simp [packCells, hh]
  rw [packFrame, hcells]
  rfl

/-- Settles O23: the perform step of such a frame packs nothing. -/
theorem emptyFrameWritesNothing : Obligations.EmptyFrameWritesNothing := by
  intro p f s d k hd hconv hc hempty
  rw [perform_of_conflictFree hd hconv hc, packFrame_of_empty hempty]

/-! ### The mirror law -/

/-- CYUV orders the samples of a row as UYVY does (R142, R144). -/
theorem byteSource_cyuv (i : Nat) : byteSource .cyuv i = byteSource .uyvy i := by
  unfold byteSource
  rcases i % 4 with _ | _ | _ | _ <;> rfl

/-- Settles O21: byte `i` of CYUV row `r` and of UYVY row `H - 1 - r` copy the same sample. -/
theorem cyuvMirrorsUyvy : Obligations.CyuvMirrorsUyvy := by
  intro m f i r hm hshape hr hi
  obtain ⟨-, -, -, -, -, hstride⟩ := (f.shapeOk_iff .cyuv).mp hshape
  have hmirror : f.height - 1 - r < f.height := by omega
  rw [read_packFrame_same m .cyuv f hm hstride hr hi,
    read_packFrame_same m .uyvy f hm hstride hmirror hi, outputByte, outputByte, byteSource_cyuv]
  rfl

/-! ### Purity -/

/-- A byte of the write set copies the same value from two memories that agree on the read footprint
(R138). -/
theorem outputByte_congr {m n : Memory} {p : Packer} {f : FrameDesc} {i r : Nat}
    (hagree : ∀ a, f.inFootprint a = true → Memory.read m a = Memory.read n a)
    (hw : f.width % 2 = 0) (hi : i < p.rowBytes f.width) (hr : r < f.height) :
    outputByte m p f i (p.sourceRow f.height r) = outputByte n p f i (p.sourceRow f.height r) :=
  hagree _ (bytesStayInFrame p f i r hw hi hr)

/-- Settles O22: both machines write each byte of the write set from the read footprint. -/
theorem conversionIsPure : Obligations.ConversionIsPure := by
  intro p f s t s' t' d e k j hms hmt hshape hd hconv he hconv' hc hc' hagree hs ht a ha
  obtain ⟨hw, -, -, -, -, hstride⟩ := (f.shapeOk_iff p).mp hshape
  rw [perform_of_conflictFree hd hconv hc] at hs
  rw [perform_of_conflictFree he hconv' hc'] at ht
  cases hs
  cases ht
  obtain ⟨r, hr, i, hi, rfl⟩ := (writeSet_contains_iff f p a).mp ha
  rw [read_packFrame_same s.mem p f hms hstride hr hi,
    read_packFrame_same t.mem p f hmt hstride hr hi]
  exact outputByte_congr hagree hw hi hr

/-! ### The inverse unpacking -/

/-- A CONVERT that runs has packed the frame: its perform step found nothing to conflict with, since it
left nothing pending. -/
theorem Converts.mem_eq {p : Packer} {s u : State} {d : Instance} {f : FrameDesc}
    (h : Converts p s d f u) (hd : s.instances[s.target]? = some d) (hf : d.frame? = some f) :
    u.mem = packFrame s.mem p f := by
  have hget := State.setTarget_get (e := { d with pending := some p }) hd
  have hconv : ({ d with pending := some p } : Instance).conversion? = some (p, f) :=
    (Instance.conversion?_eq_some _ _ _).mpr ⟨rfl, hf⟩
  have hu := (perform_of_conversion hget hconv).symm.trans h.perform
  split_ifs at hu with hc
  · cases hu
    have hdone : (s.setTarget { d with status := .ok, pending := none }).instances[s.target]? =
        some { d with pending := some p } :=
      (congrArg (·.instances[s.target]?) h.registers).symm.trans hget
    simpa using congrArg (Option.map (·.pending)) (hdone.symm.trans (State.setTarget_get hd))
  · cases hu
    rfl

/-- The bytes that a legal CONVERT leaves in its rows are those of its kernel (R138). -/
theorem Converts.convertsBytes {p : Packer} {s u : State} {d : Instance} {f : FrameDesc}
    (h : Converts p s d f u) (hm : Memory.wf s.mem) (hl : f.legal p s.cfg = true)
    (hd : s.instances[s.target]? = some d) (hf : d.frame? = some f) : ConvertsBytes p s d f u := by
  obtain ⟨-, hshape, -, -⟩ := (f.legal_iff p _).mp hl
  obtain ⟨-, -, -, -, -, hstride⟩ := (f.shapeOk_iff p).mp hshape
  refine ⟨h, fun r hr i hi => ?_⟩
  rw [h.mem_eq hd hf, read_packFrame_same s.mem p f hm hstride hr hi]

/-- The inverse unpacking looks for a luma sample at the byte that copies it (R146). -/
theorem byteSource_lumaByte (p : Packer) {x : Nat} (hx : p = .y211 → x % 2 = 0) :
    byteSource p (lumaByte p x) = (.y, x) := by
  cases p with
  | yuyv | yvyu =>
    obtain h | h : 2 * x % 4 = 0 ∨ 2 * x % 4 = 2 := by omega
    all_goals simp only [byteSource, lumaByte, h, Prod.mk.injEq, true_and]; omega
  | uyvy | cyuv =>
    obtain h | h : (2 * x + 1) % 4 = 1 ∨ (2 * x + 1) % 4 = 3 := by omega
    all_goals simp only [byteSource, lumaByte, h, Prod.mk.injEq, true_and]; omega
  | y211 =>
    have hx := hx rfl
    obtain h | h : x % 4 = 0 ∨ x % 4 = 2 := by omega
    all_goals simp only [byteSource, lumaByte, h, Prod.mk.injEq, true_and]; omega

/-- It looks for a chroma-U sample at the byte that copies it (R146). -/
theorem byteSource_chromaUByte (p : Packer) {j : Nat} (hj : p = .y211 → j % 2 = 0) :
    byteSource p (chromaUByte p j) = (.u, j) := by
  cases p with
  | yuyv | yvyu | uyvy | cyuv => simp [byteSource, chromaUByte, Nat.mul_add_div]
  | y211 =>
    have hj := hj rfl
    have h : (2 * j + 1) % 4 = 1 := by omega
    simp only [byteSource, chromaUByte, h, Prod.mk.injEq, true_and]
    omega

/-- It looks for a chroma-V sample at the byte that copies it (R146). -/
theorem byteSource_chromaVByte (p : Packer) {j : Nat} (hj : p = .y211 → j % 2 = 0) :
    byteSource p (chromaVByte p j) = (.v, j) := by
  cases p with
  | yuyv | yvyu | uyvy | cyuv => simp [byteSource, chromaVByte, Nat.mul_add_div]
  | y211 =>
    have hj := hj rfl
    have h : (2 * j + 3) % 4 = 3 := by omega
    simp only [byteSource, chromaVByte, h, Prod.mk.injEq, true_and]
    omega

theorem lumaByte_lt (p : Packer) {x w : Nat} (hx : x < w) : lumaByte p x < p.rowBytes w := by
  cases p <;> simp only [lumaByte, Packer.rowBytes] <;> omega

theorem chromaUByte_lt (p : Packer) {j w : Nat} (hj : j < w / 2) :
    chromaUByte p j < p.rowBytes w := by
  cases p <;> simp only [chromaUByte, Packer.rowBytes] <;> omega

/-- The last V byte of a Y211 row can lie beyond a cut unit (D17; log 28). -/
theorem chromaVByte_lt (p : Packer) {j w : Nat} (hj : j < w / 2) (hcut : p = .y211 → 2 * j + 3 < w) :
    chromaVByte p j < p.rowBytes w := by
  cases p with
  | yuyv | yvyu | uyvy | cyuv => simp only [chromaVByte, Packer.rowBytes]; omega
  | y211 => exact hcut rfl

/-- Settles O17: the byte the unpacking reads lies in the row and copies the sample it stands for. -/
theorem roundTrip : Obligations.RoundTrip := by
  intro p s d f u hm hl h hd hf r hr
  have copies : ∀ {i q x}, byteSource p i = (q, x) → i < p.rowBytes f.width →
      Memory.read u.mem (f.dstAddr i r) = sample s.mem f q x (p.sourceRow f.height r) := by
    intro i q x hsrc hi
    rw [(h.convertsBytes hm hl hd hf).bytes r hr i hi, outputByte, hsrc]
  exact ⟨fun x hx heven => copies (byteSource_lumaByte p heven) (lumaByte_lt p hx),
    fun j hj heven => copies (byteSource_chromaUByte p heven) (chromaUByte_lt p hj),
    fun j hj hcut => copies (byteSource_chromaVByte p fun hp => (hcut hp).1)
      (chromaVByte_lt p hj fun hp => (hcut hp).2)⟩

end Sys2Proof.Machine
end

section
/-! The block never stops the machine: every access to a copy that exists answers a next state. -/

namespace Sys2Proof.Machine

/-! ### Accesses to the addressed copy -/

/-- The access `x` of the addressed copy answers a next state, unless there is no such copy (log 13). -/
def Answered (s : State) (x : Result) : Prop :=
  (∃ t, x = .next t) ∨ (s.instances[s.target]? = none ∧ x = .fault .noSuchInstance)

theorem Answered.next {s : State} {x : Result} {d : Instance} (h : Answered s x)
    (hd : s.instances[s.target]? = some d) : ∃ t, x = .next t := by
  obtain h | ⟨hnone, -⟩ := h
  · exact h
  · cases hnone.symm.trans hd

theorem Answered.not_refused {s : State} {x : Result} (h : Answered s x) (q : Refusal) :
    x ≠ .refused q := by
  obtain ⟨t, rfl⟩ | ⟨-, rfl⟩ := h <;> rintro ⟨⟩

theorem State.onTarget_answered {s : State} {f : Instance → Result} (hf : ∀ d, ∃ t, f d = .next t) :
    Answered s (s.onTarget f) := by
  cases hd : s.instances[s.target]? with
  | none => exact .inr ⟨hd, by rw [State.onTarget, hd]⟩
  | some d => exact .inl (State.onTarget_of f hd ▸ hf d)

/-- An access that BUSY guards answers where the access itself does: a refused action answers too (R36;
log 1). -/
theorem State.guarded_answered {s : State} {f : Instance → Result} (hf : ∀ d, ∃ t, f d = .next t) :
    Answered s (s.onTarget fun d => if d.busy then s.refuse .writeWhileBusy else f d) := by
  refine State.onTarget_answered fun d => ?_
  cases d.busy
  · exact hf d
  · exact ⟨_, rfl⟩

theorem writeOperandReg_answered (r : RegName) (v : Nat) (s : State) :
    Answered s (writeOperandReg r v s) := State.guarded_answered fun _ => ⟨_, rfl⟩

theorem illegalCommand_answered (s : State) : Answered s (illegalCommand s) :=
  State.guarded_answered fun _ => ⟨_, rfl⟩

theorem execSelect_answered (s : State) : Answered s (execSelect s) := by
  refine State.guarded_answered fun d => ?_
  cases d.selectOperands? <;> exact ⟨_, rfl⟩

theorem issueConvert_answered (p : Packer) (s : State) : Answered s (issueConvert p s) := by
  refine State.guarded_answered fun d => ?_
  cases d.frame? with
  | none => exact ⟨_, rfl⟩
  | some f => cases hl : f.legal p s.cfg <;> simp [hl, State.refuse]

/-- R175: every row answers on a copy that exists. -/
theorem exec_answered (i : Instr) (s : State) : Answered s (exec i s) := by
  cases i with
  | select => exact execSelect_answered s
  | convertYuyv | convertYvyu | convertUyvy | convertCyuv | convertY211 =>
    exact issueConvert_answered _ s
  | convertIuyv => exact State.guarded_answered fun _ => ⟨_, rfl⟩
  | srcI422 | dstYuy2 | dstYunv | dstYvyu | dstUyvy | dstUynv | dstY422 | dstIuyv | dstCyuv
  | dstY211 => exact writeOperandReg_answered _ _ s

theorem deliver_answered (k : Nat) (p : Port) (w : Word) (s : State) :
    Answered (s.aim k) (deliver k p w s) := by
  unfold deliver
  split
  · exact exec_answered _ _
  · cases p with
    | cmd => exact illegalCommand_answered _
    | srcTag | dstTag => exact writeOperandReg_answered _ _ _

theorem writeRegister_answered (k : Nat) (r : RegName) (v : Nat) (s : State) :
    Answered (s.aim k) (writeRegister k r v s) := by
  unfold writeRegister
  split
  · exact deliver_answered _ _ _ _
  · split
    · exact writeOperandReg_answered _ _ _
    · exact State.onTarget_answered fun _ => ⟨_, rfl⟩

theorem readRegister_answered (k : Nat) (r : RegName) (th x : Nat) (s : State) :
    Answered (s.aim k) (readRegister k r th x s) := by
  refine State.onTarget_answered fun d => ?_
  cases d.readReg r <;> exact ⟨_, rfl⟩

theorem waitIdle_answered (k th : Nat) (s : State) : Answered (s.aim k) (waitIdle k th s) := by
  refine State.onTarget_answered fun d => ?_
  cases d.busy <;> exact ⟨_, rfl⟩

/-! ### Moves -/

/-- A host line can fault (log 13), and is never refused as having no meaning. -/
theorem runAction_not_refused (th : Nat) (a : Action) (s : State) (q : Refusal) :
    runAction th a s ≠ .refused q := by
  cases a with
  | write k r v => exact (writeRegister_answered k r v _).not_refused q
  | read k r x => exact (readRegister_answered k r th x _).not_refused q
  | wait k => exact (waitIdle_answered k th s).not_refused q
  | store a v => simp only [runAction, hostStore, State.refuse]; split_ifs <;> rintro ⟨⟩
  | load a x => simp only [runAction, hostLoad]; split_ifs <;> rintro ⟨⟩
  | jump | halt | unmapped => rintro ⟨⟩

theorem runThread_not_refused (th : Nat) (s : State) (q : Refusal) :
    runThread th s ≠ .refused q := by
  unfold runThread
  split
  · exact runAction_not_refused _ _ _ q
  · rintro ⟨⟩

/-- R136: a packer's move answers, whether it performs, is refused or has nothing to do. -/
theorem exists_perform_eq_next (k : Nat) (s : State) : ∃ t, perform k s = .next t := by
  cases hd : s.instances[k]? with
  | none => exact ⟨s, by simp [perform, hd]⟩
  | some d =>
    cases hp : d.pending with
    | none => exact ⟨s, perform_of_pending_none hd hp⟩
    | some p =>
      cases hf : d.frame? with
      | none => exact ⟨s.mark .unwrittenOperand, by simp [perform, hd, hp, hf, State.refuse]⟩
      | some f =>
        rw [perform_of_conversion hd ((d.conversion?_eq_some p f).mpr ⟨hp, hf⟩)]
        split_ifs <;> exact ⟨_, rfl⟩

/-- R178: only a host move can stop the machine. -/
theorem runMove_next_or_host (m : Move) (s : State) :
    (∃ t, runMove m s = .next t) ∨ ∃ th, m = .host th := by
  cases m with
  | host th => exact .inr ⟨th, rfl⟩
  | packer k => exact .inl (exists_perform_eq_next k s)
  | reset | idle => exact .inl ⟨_, rfl⟩

theorem runMove_not_refused (m : Move) (s : State) (q : Refusal) : runMove m s ≠ .refused q := by
  obtain ⟨t, h⟩ | ⟨th, rfl⟩ := runMove_next_or_host m s
  · rw [h]; rintro ⟨⟩
  · exact runThread_not_refused th s q

/-- Settles O52: rows, packers and reset answer a next state, and host lines are never refused. -/
theorem blockNeverStops : Obligations.BlockNeverStops := by
  refine ⟨fun i s d hd => (exec_answered i s).next hd, exists_perform_eq_next, fun s => ⟨_, rfl⟩,
    fun s => runMove_not_refused _ _, fun s q h => ?_⟩
  refine (runMove_next_or_host (nextMove s).1 (nextMove s).2).resolve_left ?_
  rintro ⟨t, ht⟩
  cases h.symm.trans ht

end Sys2Proof.Machine
end

section
/-! The end of a run. -/

namespace Sys2Proof.Machine

/-- A run is at its end exactly when no thread is live and no copy is busy (R216). -/
theorem State.final_iff (s : State) :
    s.final = true ↔ (∀ t ∈ s.threads, t.live = false) ∧ ∀ d ∈ s.instances, d.busy = false := by
  simp [State.final]

/-- At the end of a run nobody has a move by default (log 8). -/
theorem defaultMove_of_final {s : State} (h : s.final = true) : defaultMove s = .idle := by
  obtain ⟨hstopped, hidle⟩ := s.final_iff.mp h
  have hpackers : s.instances.findIdx? (·.busy) = none := List.findIdx?_eq_none_iff.mpr hidle
  have hthreads : s.threads.findIdx? (·.live) = none := List.findIdx?_eq_none_iff.mpr hstopped
  simp [defaultMove, hpackers, hthreads]

/-- Settles O51: no thread is live and no copy is busy, so the default move is the idle one. -/
theorem finalStateStays : Obligations.FinalStateStays := by
  refine ⟨fun s => ?_, fun s hs hfinal => ?_⟩
  · simp only [s.final_iff, HostThread.live_eq_false_iff, Instance.busy_eq_false_iff]
  · rw [step_of_unscheduled hs, defaultMove_of_final hfinal]
    rfl

end Sys2Proof.Machine
end
